-- ==== Sys2Proof/Word.lean ====
section
/-! DEFINITION. The plain data types every file shares: 32-bit words, bytes, channel indices and the timestamp
pair (spec 00_scope.md R9, R10, R11, R13). No value of the block is signed (R13). -/

namespace Sys2Proof

/-- A 32-bit unsigned word: command words, operand words, result words, addresses, lengths, timestamp fields (R9, R10, R110). -/
abbrev Word := BitVec 32

/-- One byte of memory or of a line (R16, R17). -/
abbrev Byte := BitVec 8

/-- A channel index: the 4-bit CH field of a command word, 0 .. 15 (R11, R111). -/
abbrev Chan := Fin 16

/-- A timestamp or a duration: unsigned seconds and nanoseconds (R9, R150). It is *valid* when `ns` is below 1e9. -/
structure Timestamp where
  sec : Word
  ns  : Word
  deriving DecidableEq, Repr, Inhabited

end Sys2Proof
end

