-- ==== Sys2Proof/Config.lean ====
section
/-! DEFINITION. What an implementation fixes (the parameters of spec 00_scope.md R7 to R12 and CFG.TIMEOUT of
10_state.md R50), what the agents outside the block can say, and the free values: their answers (R6, R12, R17, R339, R345). -/

namespace Sys2Proof

/-- FRAG_MAX (R7): the most fragments one list may have. UNVERIFIED (U10, log entry 16). -/
def fragMax : Nat := 32

/-- BYTE_MAX (R8): the most bytes one fragment list may total, and the largest receive capacity. UNVERIFIED
(U10, log entry 16). -/
def byteMax : Nat := 65528

/-- NS_PER_S (R9). -/
def nsPerS : Nat := 1000000000

/-- The kind of a one-byte memory access (R12, R81). -/
inductive AccessKind where
  | read
  | write
  deriving DecidableEq, Repr

/-- A run of addresses `lo .. hi` (both included) whose accesses of one kind the platform does not admit. -/
structure Region where
  kind : AccessKind
  lo   : Nat
  hi   : Nat
  deriving DecidableEq, Repr

/-- The parameters of one instance of the block. They are fixed for a machine; the state carries them as plain data that
no step writes, so that a statement about every state is a statement about every instance (log entries 1 and 2).
`denied` is P_MEM_OK as data: an access is admitted unless a listed region refuses it. -/
structure Params where
  /-- P_NCHAN (R11), 1 .. 16. -/
  nchan     : Nat
  /-- P_TICK_NS (R12), 1 .. 999 999 999. -/
  tickNs    : Nat
  /-- P_HR_PRESENT (R12). -/
  hrPresent : Bool
  /-- CFG.TIMEOUT[c] = P_IDLE_TIMEOUT[c] (R12, R50), each valid. -/
  timeout   : Vector Timestamp 16
  /-- The accesses P_MEM_OK refuses (R12, R81). -/
  denied    : List Region
  deriving DecidableEq, Repr

/-- The bounds the spec puts on the parameters (R11, R12, R50). -/
def Params.wf (p : Params) : Bool :=
  decide (1 ≤ p.nchan) && decide (p.nchan ≤ 16) && decide (1 ≤ p.tickNs) && decide (p.tickNs < nsPerS) &&
    p.timeout.toList.all (fun t => decide (t.ns.toNat < nsPerS))

/-- The instance the model resets to: four channels, a 5 ms tick, the sub-period counter present (R11, R12), and, where
the spec leaves the value OPEN, the common setting of 95_test_vectors.md: every access admitted, every idle timeout
{0, 2 000 000}. DESIGN CHOICE (log entry 1). -/
def Params.source : Params where
  nchan     := 4
  tickNs    := 5000000
  hrPresent := true
  timeout   := Vector.replicate 16 ⟨0, 2000000⟩
  denied    := []

/-- The agent that takes the next step: the tick source or the host (R6, R339). -/
inductive Turn where
  | tick
  | host
  deriving DecidableEq, Repr, Inhabited

/-- A command as the host presents it: one command word and four operand words (R110). -/
structure Command where
  word : Word
  a0   : Word
  a1   : Word
  a2   : Word
  a3   : Word
  deriving DecidableEq, Repr, Inhabited

/-- What the host does at a turn of its own between commands: present a command, write a byte of its own memory, or neither
(R32, R92, R93, R110). -/
inductive HostAct where
  | idle
  | command (k : Command)
  | store (addr : Word) (b : Byte)
  deriving DecidableEq, Repr, Inhabited

/-- Free value: which agent moves next when no order is queued; `n` counts the turns taken (R339, log entry 4). -/
opaque Config.freeTurn : Nat → Turn

/-- Free value: what the host does next when no act is queued; `n` counts its acts (R32, R371, log entry 3). -/
opaque Config.freeHostAct : Nat → HostAct

/-- Free value: the n-th answer of line c to HwTxReady when none is queued (R17, R345, log entry 5). -/
opaque Config.freeTxReady : Chan → Nat → Bool

/-- Free value: the n-th answer of line c to HwRxReady when none is queued (R17, R345, log entry 5). -/
opaque Config.freeRxReady : Chan → Nat → Bool

/-- Free value: the n-th byte and error bit of line c at HwRead when none is queued (R17, R345, log entry 5). -/
opaque Config.freeRead : Chan → Nat → Byte × Bool

/-- Free value: the n-th reading of the sub-period counter when none is queued; the draw is this number reduced
below P_TICK_NS (R12, U5, log entry 6). -/
opaque Config.freeSubTick : Nat → Word

end Sys2Proof
end

