-- ==== Sys2Proof/Syntax.lean ====
section
/-! DEFINITION. The commands of SFB-CI/1 as syntax: the fourteen instructions of
spec/opcode_table.json (R112, R113), the assembler spelling (R118) and the pseudo-instructions (R119). -/

namespace Sys2Proof

/-- One constructor per row of the opcode table (R112), with the operand words the row uses (R113). The input event TICK
is no command and has no row (R117). -/
inductive Instr where
  | now
  | hrnow
  | delta (asec ans bsec bns : Word)
  | cmp (asec ans bsec bns : Word)
  | norm (sec ns : Word)
  | clkrd (sel : Word)
  | send (c : Chan) (desc count : Word)
  | txabort (c : Chan)
  | txbusy (c : Chan)
  | recv (c : Chan) (buf cap : Word)
  | rxabort (c : Chan)
  | rxbusy (c : Chan)
  | rxstat (c : Chan)
  | poll (c : Chan) (tsec tns : Word)
  deriving DecidableEq, Repr

/-- The operation an OPC value names (R112). -/
inductive Op where
  | now | hrnow | delta | cmp | norm | clkrd
  | send | txabort | txbusy
  | recv | rxabort | rxbusy | rxstat
  | poll
  deriving DecidableEq, Repr

/-- The operation of an instruction. -/
def Instr.op : Instr → Op
  | .now => .now
  | .hrnow => .hrnow
  | .delta .. => .delta
  | .cmp .. => .cmp
  | .norm .. => .norm
  | .clkrd .. => .clkrd
  | .send .. => .send
  | .txabort .. => .txabort
  | .txbusy .. => .txbusy
  | .recv .. => .recv
  | .rxabort .. => .rxabort
  | .rxbusy .. => .rxbusy
  | .rxstat .. => .rxstat
  | .poll .. => .poll

/-- How many of the operand words A0, A1, ... an operation uses (R113). -/
def Op.arity : Op → Nat
  | .delta | .cmp => 4
  | .norm | .send | .recv | .poll => 2
  | .clkrd => 1
  | .now | .hrnow | .txabort | .txbusy | .rxabort | .rxbusy | .rxstat => 0

/-- The operand words of a command in order (R110). -/
def Command.operands (k : Command) : List Word := [k.a0, k.a1, k.a2, k.a3]

/-- The channel of a channel command; a clock command has none (R111, R112). -/
def Instr.chan : Instr → Option Chan
  | .now | .hrnow | .delta .. | .cmp .. | .norm .. | .clkrd .. => none
  | .send c _ _ | .txabort c | .txbusy c | .recv c _ _ | .rxabort c | .rxbusy c | .rxstat c | .poll c _ _ => some c

/-- A 32-bit number in decimal, as R118 allows. -/
def Word.asm (w : Word) : String := toString w.toNat

/-- `chN` (R118). -/
def Chan.asm (c : Chan) : String := "ch" ++ toString c.val

/-- The CLKRD selector's spelling: SEC, NSEC, GEN for 0, 1, 2; any other value, which R118 gives no word, as its number. -/
def selAsm (sel : Word) : String :=
  if sel = 0 then "SEC" else if sel = 1 then "NSEC" else if sel = 2 then "GEN" else Word.asm sel

/-- The assembler line of an instruction (R118), its numbers in decimal. DESIGN CHOICE (log entry 14). -/
def Instr.asm : Instr → String
  | .now => "NOW"
  | .hrnow => "HRNOW"
  | .delta a b c d => "DELTA " ++ Word.asm a ++ ", " ++ Word.asm b ++ ", " ++ Word.asm c ++ ", " ++ Word.asm d
  | .cmp a b c d => "CMP " ++ Word.asm a ++ ", " ++ Word.asm b ++ ", " ++ Word.asm c ++ ", " ++ Word.asm d
  | .norm s n => "NORM " ++ Word.asm s ++ ", " ++ Word.asm n
  | .clkrd sel => "CLKRD " ++ selAsm sel
  | .send c d n => "SEND " ++ Chan.asm c ++ ", " ++ Word.asm d ++ ", " ++ Word.asm n
  | .txabort c => "TXABORT " ++ Chan.asm c
  | .txbusy c => "TXBUSY " ++ Chan.asm c
  | .recv c b k => "RECV " ++ Chan.asm c ++ ", " ++ Word.asm b ++ ", " ++ Word.asm k
  | .rxabort c => "RXABORT " ++ Chan.asm c
  | .rxbusy c => "RXBUSY " ++ Chan.asm c
  | .rxstat c => "RXSTAT " ++ Chan.asm c
  | .poll c s n => "POLL " ++ Chan.asm c ++ ", " ++ Word.asm s ++ ", " ++ Word.asm n

/-- `SENDNOP chN`: the empty fragment list (R119). -/
def Pseudo.sendnop (c : Chan) : List Instr := [.send c 0 0]

/-- `REARM chN, buf, cap` (R119). -/
def Pseudo.rearm (c : Chan) (buf cap : Word) : List Instr := [.recv c buf cap]

/-- `PASS tsec, tns`: one scheduler pass over the channels in the order the host chose (R119, R304). -/
def Pseudo.pass (order : List Chan) (tsec tns : Word) : List Instr := order.map (fun c => .poll c tsec tns)

/-- `WAITRX chN` unrolled for the passes (their times) that fell between its RXBUSY repeats (R119): the host ends it at the
first RXBUSY whose RES0 is 0. -/
def Pseudo.waitrx (c : Chan) (order : List Chan) (times : List Timestamp) : List Instr :=
  times.flatMap (fun t => .rxbusy c :: Pseudo.pass order t.sec t.ns) ++ [.rxbusy c]

end Sys2Proof
end

