-- ==== Sys2Proof/WellFormed.lean ====
section
/-! DEFINITION. Which instruction terms a command word of an instance with P_NCHAN channels can spell (R11, R111, R116). -/

namespace Sys2Proof

/-- A channel command names a channel the instance has; a clock command is always well formed (R116). Operand words are
unrestricted: their checks belong to each command (R115, R155, R201, R250). -/
def Instr.wf (nchan : Nat) (i : Instr) : Bool :=
  match i.chan with
  | none => true
  | some c => decide (c.val < nchan)

end Sys2Proof
end

