-- ==== Sys2Proof/Decode.lean ====
section
/-! DEFINITION. Decoding a presented command (R110 to R116) and the encoder written from the same tables (R111, R113). -/

namespace Sys2Proof

/-- Why a command word is ILLEGAL before any operand is examined (R116, R333), in the order the checks are made. -/
inductive DecodeError where
  /-- bits 31:12 are not 0 -/
  | reservedBits
  /-- OPC is not in the opcode map, 0x00 included -/
  | unknownOpcode
  /-- a clock command with CH other than 0 -/
  | clockChannel
  /-- a channel command with CH ≥ P_NCHAN -/
  | noSuchChannel
  deriving DecidableEq, Repr

/-- The OPC value of each operation (R112). -/
def opcOf : Op → BitVec 8
  | .now => 0x01
  | .hrnow => 0x02
  | .delta => 0x03
  | .cmp => 0x04
  | .norm => 0x05
  | .clkrd => 0x06
  | .send => 0x10
  | .txabort => 0x11
  | .txbusy => 0x12
  | .recv => 0x20
  | .rxabort => 0x21
  | .rxbusy => 0x22
  | .rxstat => 0x23
  | .poll => 0x30

/-- The rows of the opcode map in its order (R112). -/
def opcodeMap : List Op :=
  [.now, .hrnow, .delta, .cmp, .norm, .clkrd, .send, .txabort, .txbusy, .recv, .rxabort, .rxbusy, .rxstat, .poll]

/-- The operation an OPC value names, if the map has it (R112). -/
def opOf (opc : BitVec 8) : Option Op := opcodeMap.find? (fun o => opcOf o == opc)

/-- The clock family (R112). -/
def isClock : Op → Bool
  | .now | .hrnow | .delta | .cmp | .norm | .clkrd => true
  | .send | .txabort | .txbusy | .recv | .rxabort | .rxbusy | .rxstat | .poll => false

/-- OPC, bits 7:0 (R111). -/
def opcField (w : Word) : BitVec 8 := w.extractLsb' 0 8

/-- CH, bits 11:8 (R111). -/
def chField (w : Word) : Chan := ⟨(w.extractLsb' 8 4).toNat, (w.extractLsb' 8 4).isLt⟩

/-- RSV, bits 31:12 (R111). -/
def rsvField (w : Word) : BitVec 20 := w.extractLsb' 12 20

/-- The instruction of an operation, its operands taken from A0 .. A3 as R113 assigns them; operand words it does not use
are ignored (R110). -/
def assemble (o : Op) (c : Chan) (k : Command) : Instr :=
  match o with
  | .now => .now
  | .hrnow => .hrnow
  | .delta => .delta k.a0 k.a1 k.a2 k.a3
  | .cmp => .cmp k.a0 k.a1 k.a2 k.a3
  | .norm => .norm k.a0 k.a1
  | .clkrd => .clkrd k.a0
  | .send => .send c k.a0 k.a1
  | .txabort => .txabort c
  | .txbusy => .txbusy c
  | .recv => .recv c k.a0 k.a1
  | .rxabort => .rxabort c
  | .rxbusy => .rxbusy c
  | .rxstat => .rxstat c
  | .poll => .poll c k.a0 k.a1

/-- R116, check by check, for an instance with `nchan` channels. -/
def decode (nchan : Nat) (k : Command) : Except DecodeError Instr :=
  if rsvField k.word ≠ 0 then .error .reservedBits
  else
    match opOf (opcField k.word) with
    | none => .error .unknownOpcode
    | some o =>
      if isClock o = true ∧ chField k.word ≠ 0 then .error .clockChannel
      else if isClock o = false ∧ nchan ≤ (chField k.word).val then .error .noSuchChannel
      else .ok (assemble o (chField k.word) k)

/-- The command word of an operation on a channel: `(CH << 8) | OPC` (R111). -/
def commandWord (o : Op) (c : Chan) : Word :=
  (BitVec.ofNat 32 c.val <<< 8) ||| (opcOf o).zeroExtend 32

/-- The command that presents an instruction: a clock command has CH = 0, an unused operand word is 0 (R111, R113). -/
def encode : Instr → Command
  | .now => ⟨commandWord .now 0, 0, 0, 0, 0⟩
  | .hrnow => ⟨commandWord .hrnow 0, 0, 0, 0, 0⟩
  | .delta a b c d => ⟨commandWord .delta 0, a, b, c, d⟩
  | .cmp a b c d => ⟨commandWord .cmp 0, a, b, c, d⟩
  | .norm s n => ⟨commandWord .norm 0, s, n, 0, 0⟩
  | .clkrd sel => ⟨commandWord .clkrd 0, sel, 0, 0, 0⟩
  | .send c d n => ⟨commandWord .send c, d, n, 0, 0⟩
  | .txabort c => ⟨commandWord .txabort c, 0, 0, 0, 0⟩
  | .txbusy c => ⟨commandWord .txbusy c, 0, 0, 0, 0⟩
  | .recv c b k => ⟨commandWord .recv c, b, k, 0, 0⟩
  | .rxabort c => ⟨commandWord .rxabort c, 0, 0, 0, 0⟩
  | .rxbusy c => ⟨commandWord .rxbusy c, 0, 0, 0, 0⟩
  | .rxstat c => ⟨commandWord .rxstat c, 0, 0, 0, 0⟩
  | .poll c s n => ⟨commandWord .poll c, s, n, 0, 0⟩

/-- The command whose bits, numbered from the least significant bit of the command word on through A0, A1, A2, A3, are the
low `nbits` bits of `w`; every bit above is 0. -/
def tableCommand (nbits w : Nat) : Command :=
  let v := w % 2 ^ nbits
  ⟨BitVec.ofNat 32 v, BitVec.ofNat 32 (v / 2 ^ 32), BitVec.ofNat 32 (v / 2 ^ 64), BitVec.ofNat 32 (v / 2 ^ 96),
    BitVec.ofNat 32 (v / 2 ^ 128)⟩

/-- What the decoder reads from an opcode-table word, on the instance the model resets to (R116). -/
def decodeTableWord (nbits w : Nat) : Option Instr :=
  match decode Params.source.nchan (tableCommand nbits w) with
  | .ok i => some i
  | .error _ => none

end Sys2Proof
end

