-- ==== Sys2Proof/Machine/State.lean ====
section
/-! DEFINITION. Everything the spec gives the block to hold (10_state.md R30 to R54), as plain data, and the state after
reset (R54, R370). The fields `params`, `resp`, `stuck`, `mem` and the environment's queues are the model's own; INVENTORY.md
says so line by line. -/

namespace Sys2Proof.Machine

open Sys2Proof

/-- CLK (R33, R34, R35). -/
structure Clock where
  sec  : Word
  nsec : Word
  gen  : Word
  deriving DecidableEq, Repr

/-- TX.STATE, one bit: 0 IDLE, 1 DRAINING (R38). -/
inductive TxState where
  | idle
  | draining
  deriving DecidableEq, Repr

/-- One entry of the fragment table (R40). -/
structure Frag where
  addr : Word
  len  : Word
  deriving DecidableEq, Repr

/-- CH[c].TX (R38 to R41). -/
structure TxSide where
  state   : TxState
  fcount  : BitVec 6
  fidx    : BitVec 5
  ft      : Vector Frag 32
  curAddr : Word
  curRem  : Word
  deriving DecidableEq, Repr

/-- RX.STATE, one bit: 0 UNARMED, 1 ARMED (R43). -/
inductive RxState where
  | unarmed
  | armed
  deriving DecidableEq, Repr

/-- RX.KIND, two bits: 0 NONE, 1 DATA, 2 LINE_BREAK; 3 is never held (R47). -/
inductive RxKind where
  | none
  | data
  | lineBreak
  deriving DecidableEq, Repr

/-- CH[c].RX (R43 to R47). -/
structure RxSide where
  state : RxState
  buf   : Word
  cap   : Word
  idx   : Word
  last  : Timestamp
  kind  : RxKind
  len   : Word
  deriving DecidableEq, Repr

/-- The channel context CH[c] (R30). -/
structure Channel where
  tx : TxSide
  rx : RxSide
  deriving DecidableEq, Repr

/-- The next read of a clock-reading attempt and the values the attempt has read so far (R48). -/
inductive ReadPhase where
  | gen1
  | sec (g1 : Word)
  | nsec (g1 s : Word)
  | sub (g1 s n : Word)
  | gen2 (g1 s n : Word) (sub : Option Word)
  deriving DecidableEq, Repr

/-- The command whose clock-reading loop is in progress (R48, R250). A RECV carries its operands through its HRNOW. -/
inductive Reader where
  | now
  | hrnow
  | recv (c : Chan) (buf cap : Word)
  deriving DecidableEq, Repr

/-- The micro-step state of a NOW, HRNOW or RECV in progress (R19, R48): inside the reading loop, or, for RECV, with the
HRNOW result in hand and the slot still to be written (R250). -/
inductive Micro where
  | reading (r : Reader) (p : ReadPhase)
  | arming (c : Chan) (buf cap : Word) (t : Timestamp)
  deriving DecidableEq, Repr

/-- ST (R331): 0 OK, 1 REJECTED, 2 ILLEGAL. -/
inductive Status where
  | ok
  | rejected
  | illegal
  deriving DecidableEq, Repr

/-- What a command returns (R110, R331). -/
structure Response where
  st   : Status
  res0 : Word
  res1 : Word
  res2 : Word
  deriving DecidableEq, Repr

/-- One byte access of the block (R81). -/
structure Access where
  kind : AccessKind
  addr : Word
  deriving DecidableEq, Repr

/-- Answers an outside agent will give, oldest first, and how many it has given (R20's draws). When the queue is empty the
next answer is a free value of Config applied to `taken` (log entries 3 to 6). -/
structure Draws (α : Type) where
  queue : List α
  taken : Nat
  deriving DecidableEq, Repr

/-- The answers of one line to HwTxReady, HwRxReady and HwRead (R17, R345). -/
structure Line where
  txReady : Draws Bool
  rxReady : Draws Bool
  read    : Draws (Byte × Bool)
  deriving DecidableEq, Repr

/-- The block, the memory it shares with its host, and the agents around it (R6, R30). -/
structure State where
  /-- The parameters of this instance and CFG.TIMEOUT; no step writes them (R7 to R12, R50). -/
  params   : Params
  /-- CLK.SEC, CLK.NSEC, CLK.GEN (R33 to R35). -/
  clk      : Clock
  /-- CH[c]; contexts at c ≥ P_NCHAN belong to no channel and no step reaches them (R11, R38 to R47; log entry 11). -/
  ch       : Vector Channel 16
  /-- TXLOG[c], an observation (R52). -/
  txLog    : Vector (List Byte) 16
  /-- The micro-step state of the one command in progress, if there is one (R48). -/
  micro    : Option Micro
  /-- The access the platform refused to the command that is stuck on it, if there is one (R81, R330; DEDUCED, log entry 9). -/
  stuck    : Option Access
  /-- What the last command returned; none before the first return and while a command is in progress or stuck (R110; DESIGN CHOICE,
  log entry 8). -/
  resp     : Option Response
  /-- The host's data memory, in canonical form (R80). -/
  mem      : List Host.Cell
  /-- Which agent moves next (R339). -/
  turns    : Draws Turn
  /-- What the host does next, in order (R32, R92, R93). -/
  host     : Draws HostAct
  /-- Readings of the sub-period counter (R12, R159). -/
  subTicks : Draws Word
  /-- The lines (R17, R51). -/
  lines    : Vector Line 16
  deriving DecidableEq, Repr

/-- Why the machine stops. -/
inductive Fault where
  /-- Raised by `step` alone, at a host turn while a command of the host is stuck on an access P_MEM_OK does not admit: the
  spec gives the command no step (R81, R330). Safe: nothing can be proved of a step that is not taken; TICK turns go on. -/
  | stuck (a : Access)
  deriving DecidableEq, Repr

/-- Why an instruction has no meaning. -/
inductive Refusal where
  /-- Raised by an arm of `exec` whose instruction has no meaning yet; safe. No arm raises it now. -/
  | notModelled (mnemonic : String)
  deriving DecidableEq, Repr

/-- "Zeroed state" of the transmit side (R54). -/
def TxSide.zero : TxSide := ⟨.idle, 0, 0, Vector.replicate 32 ⟨0, 0⟩, 0, 0⟩

/-- "Zeroed state" of the receive side (R54). -/
def RxSide.zero : RxSide := ⟨.unarmed, 0, 0, 0, ⟨0, 0⟩, .none, 0⟩

/-- No answer queued, none given. -/
def Draws.empty (α : Type) : Draws α := ⟨[], 0⟩

/-- A line with no answer queued. -/
def Line.silent : Line := ⟨Draws.empty _, Draws.empty _, Draws.empty _⟩

/-- The state of R54 and R370 for given parameters: everything zero, nothing in progress, nothing queued outside. -/
def State.resetWith (p : Params) : State where
  params   := p
  clk      := ⟨0, 0, 0⟩
  ch       := Vector.replicate 16 ⟨TxSide.zero, RxSide.zero⟩
  txLog    := Vector.replicate 16 []
  micro    := none
  stuck    := none
  resp     := none
  mem      := []
  turns    := Draws.empty _
  host     := Draws.empty _
  subTicks := Draws.empty _
  lines    := Vector.replicate 16 Line.silent

/-- The machine right after reset (R370), on the instance `Params.source`. -/
def State.reset : State := State.resetWith Params.source

end Sys2Proof.Machine
end

