-- ==== Sys2Proof/Machine/Memory.lean ====
section
/-! DEFINITION. The host's data memory as the block sees it (20_memory.md): one byte per address, 2^32 addresses, address
arithmetic modulo 2^32 (R80, R82), admission by P_MEM_OK (R81), and descriptor words read byte by byte (R86). -/

namespace Sys2Proof.Machine

open Sys2Proof

/-- What an address no cell lists reads as. DESIGN CHOICE (log entry 7): the spec gives no initial contents. -/
def memUnlisted : Byte := 0

/-- The byte at an address. -/
def memRead : List Host.Cell → Nat → Byte
  | [], _ => memUnlisted
  | (k, b) :: m, a => if k = a then b else memRead m a

/-- Write one byte, keeping the cells in canonical form. -/
def memWrite : List Host.Cell → Nat → Byte → List Host.Cell
  | [], a, v => if v = memUnlisted then [] else [(a, v)]
  | (k, b) :: m, a, v =>
    if a < k then (if v = memUnlisted then (k, b) :: m else (a, v) :: (k, b) :: m)
    else if a = k then (if v = memUnlisted then m else (k, v) :: m)
    else (k, b) :: memWrite m a v

/-- Every listed address is above `a`, judged by the first cell (enough when the rest rises). -/
def memAbove (a : Nat) : List Host.Cell → Bool
  | [] => true
  | (k, _) :: _ => decide (a < k)

/-- The canonical form: addresses strictly rising and below 2^32, no cell equal to what an unlisted address reads as. -/
def memWf : List Host.Cell → Bool
  | [] => true
  | (a, b) :: m => decide (a < 2 ^ 32) && decide (b ≠ memUnlisted) && memAbove a m && memWf m

/-- P_MEM_OK(addr, kind) (R12, R81). -/
def memOk (p : Params) (a : Access) : Bool :=
  !(p.denied.any (fun r => decide (r.kind = a.kind) && decide (r.lo ≤ a.addr.toNat) && decide (a.addr.toNat ≤ r.hi)))

/-- MemRead(a, 1) (R16), or the access the platform refuses (R81). -/
def loadByte (s : State) (a : Word) : Except Access Byte :=
  if memOk s.params ⟨.read, a⟩ then .ok (memRead s.mem a.toNat) else .error ⟨.read, a⟩

/-- MemRead(a, n) for the n bytes at `a`, `a + 1`, ... in that order, each address modulo 2^32, each access checked
(R16, R81, R82). -/
def loadBytes (s : State) (a : Word) : Nat → Except Access (List Byte)
  | 0 => .ok []
  | n + 1 =>
    match loadByte s a with
    | .error e => .error e
    | .ok b =>
      match loadBytes s (a + 1) n with
      | .error e => .error e
      | .ok bs => .ok (b :: bs)

/-- Bytes as one number, the byte at the lowest address least significant (R16, R86). -/
def littleEndian : List Byte → Nat
  | [] => 0
  | b :: bs => b.toNat + 256 * littleEndian bs

/-- MemRead(a, 4) (R16, R86, R87): no alignment requirement. -/
def loadWord (s : State) (a : Word) : Except Access Word :=
  match loadBytes s a 4 with
  | .error e => .error e
  | .ok bs => .ok (BitVec.ofNat 32 (littleEndian bs))

/-- MemWrite(a, 1, b) once the access is admitted (R16). -/
def storeByte (s : State) (a : Word) (b : Byte) : State := { s with mem := memWrite s.mem a.toNat b }

end Sys2Proof.Machine
end

