-- ==== Sys2Proof/Machine/Time.lean ====
section
/-! DEFINITION. The pure functions of 40_clock.md on timestamps: normalization (R151), wraparound-safe subtraction (R162),
comparison (R164) and the addition of R167. -/

namespace Sys2Proof.Machine

open Sys2Proof

/-- A timestamp is valid when its nanoseconds are below 1e9 (R150). -/
abbrev tsValid (t : Timestamp) : Prop := t.ns.toNat < nsPerS

/-- `normalize(s, n)` in the closed form of R151: seconds wrap at 2^32 (90_conflicts.md C1). -/
def normalize (s : Word) (n : Nat) : Timestamp :=
  ⟨s + BitVec.ofNat 32 (n / nsPerS), BitVec.ofNat 32 (n % nsPerS)⟩

/-- The loop of R151, at most `fuel` rounds of it. -/
def normalizeLoop (fuel : Nat) (s : Word) (n : Nat) : Timestamp :=
  match fuel with
  | 0 => ⟨s, BitVec.ofNat 32 n⟩
  | f + 1 => if nsPerS ≤ n then normalizeLoop f (s + 1) (n - nsPerS) else ⟨s, BitVec.ofNat 32 n⟩

/-- The nanoseconds and the borrow of `tsdelta` (R162). -/
def deltaNs (a b : Timestamp) : Nat × Nat :=
  if b.ns.toNat ≤ a.ns.toNat then (a.ns.toNat - b.ns.toNat, 0)
  else (a.ns.toNat + nsPerS - b.ns.toNat, 1)

/-- `tsdelta(a, b)`, both branches as R162 writes them. The subtractions are exact integers, narrowed by u32 at the end. -/
def tsdelta (a b : Timestamp) : Timestamp :=
  let r := deltaNs a b
  if b.sec.toNat ≤ a.sec.toNat then
    ⟨BitVec.ofInt 32 ((a.sec.toNat : Int) - b.sec.toNat - r.2), BitVec.ofNat 32 r.1⟩
  else
    ⟨BitVec.ofInt 32 (((2 ^ 32 : Nat) : Int) - b.sec.toNat + a.sec.toNat - r.2), BitVec.ofNat 32 r.1⟩

/-- `tscmp(a, b)` (R164): unsigned, lexicographic, not wraparound-aware. -/
def tscmp (a b : Timestamp) : Ordering :=
  if a.sec.toNat < b.sec.toNat then .lt
  else if b.sec.toNat < a.sec.toNat then .gt
  else if a.ns.toNat < b.ns.toNat then .lt
  else if b.ns.toNat < a.ns.toNat then .gt
  else .eq

/-- `tsadd(b, d)` of R167. -/
def tsadd (b d : Timestamp) : Timestamp := normalize (b.sec + d.sec) (b.ns.toNat + d.ns.toNat)

end Sys2Proof.Machine
end

