-- ==== Sys2Proof/Machine/Ops.lean ====
section
/-! DEFINITION. The shared operations over the state: channel access, the line and clock primitives (R17, R18), returning a
result (R15, R110), the TICK event (R152) and a refused access (R81). The block has no exception to take and none to return
from (R330, R340); the TICK is its one interrupt. -/

namespace Sys2Proof.Machine

open Sys2Proof

/-- CH[c] (R30). -/
def State.chan (s : State) (c : Chan) : Channel := s.ch[c.val]

/-- CH[c].TX (R38). -/
def State.tx (s : State) (c : Chan) : TxSide := (s.chan c).tx

/-- CH[c].RX (R43). -/
def State.rx (s : State) (c : Chan) : RxSide := (s.chan c).rx

/-- TXLOG[c] (R52). -/
def State.log (s : State) (c : Chan) : List Byte := s.txLog[c.val]

/-- Line c (R51). -/
def State.line (s : State) (c : Chan) : Line := s.lines[c.val]

/-- CFG.TIMEOUT[c] (R50). -/
def State.timeout (s : State) (c : Chan) : Timestamp := s.params.timeout[c.val]

/-- CH[c].TX <- t. -/
def State.setTx (s : State) (c : Chan) (t : TxSide) : State :=
  { s with ch := s.ch.set c.val { s.chan c with tx := t } }

/-- CH[c].RX <- r. -/
def State.setRx (s : State) (c : Chan) (r : RxSide) : State :=
  { s with ch := s.ch.set c.val { s.chan c with rx := r } }

/-- Line c <- l. -/
def State.setLine (s : State) (c : Chan) (l : Line) : State :=
  { s with lines := s.lines.set c.val l }

/-- The next answer of an outside agent: the oldest queued one, or the free value when none is queued. -/
def draw {α : Type} (free : Nat → α) (d : Draws α) : α × Draws α :=
  match d.queue with
  | [] => (free d.taken, ⟨[], d.taken + 1⟩)
  | x :: xs => (x, ⟨xs, d.taken + 1⟩)

/-- HwTxReady(c) (R17). -/
def hwTxReady (s : State) (c : Chan) : Bool × State :=
  let d := draw (Config.freeTxReady c) (s.line c).txReady
  (d.1, s.setLine c { s.line c with txReady := d.2 })

/-- HwRxReady(c) (R17). -/
def hwRxReady (s : State) (c : Chan) : Bool × State :=
  let d := draw (Config.freeRxReady c) (s.line c).rxReady
  (d.1, s.setLine c { s.line c with rxReady := d.2 })

/-- HwRead(c) (R17): the byte and its error bit. That it clears the line's ready and error flags is the line's, outside the
block (R51, R89); each later answer is a draw of its own (R345). -/
def hwRead (s : State) (c : Chan) : (Byte × Bool) × State :=
  let d := draw (Config.freeRead c) (s.line c).read
  (d.1, s.setLine c { s.line c with read := d.2 })

/-- HwWrite(c, b) (R17, R52): the line always accepts; TXLOG[c] grows by b. -/
def hwWrite (s : State) (c : Chan) (b : Byte) : State :=
  { s with txLog := s.txLog.set c.val (s.log c ++ [b]) }

/-- SubTick() (R12, R18): a draw in [0, P_TICK_NS). -/
def subTick (s : State) : Word × State :=
  let d := draw Config.freeSubTick s.subTicks
  (BitVec.ofNat 32 (d.1.toNat % s.params.tickNs), { s with subTicks := d.2 })

/-- `return (st, r0, r1)` (R15): the command ends; RES2 is 0 for every command (R113). -/
def State.ret (s : State) (st : Status) (r0 r1 : Word) : State :=
  { s with micro := none, resp := some ⟨st, r0, r1, 0⟩ }

/-- `return (OK, r0, r1)`. -/
def State.retOk (s : State) (r0 r1 : Word) : State := s.ret .ok r0 r1

/-- `return (REJECTED)`: every result word 0 (R110, R334). -/
def State.retRejected (s : State) : State := s.ret .rejected 0 0

/-- `return (ILLEGAL)`: every result word 0 (R110, R116, R334). -/
def State.retIllegal (s : State) : State := s.ret .illegal 0 0

/-- The command is stuck on a refused access: it returns nothing and has no further step (R81, R330). -/
def State.hang (s : State) (a : Access) : State := { s with stuck := some a, resp := none }

/-- How a run of effects inside one command stands: it goes on, or a refused access has stopped it (R81). -/
inductive Progress where
  | going (s : State)
  | hung (s : State) (a : Access)
  deriving DecidableEq, Repr

/-- The end of a command whose effects are done: OK, or stuck with the effects before the refused access in place (R81). -/
def conclude : Progress → State
  | .going s => s.retOk 0 0
  | .hung s a => s.hang a

/-- The TICK event, its three writes in order (R152). It touches the clock and nothing else (R338, R340). -/
def takeTick (s : State) : State :=
  let c1 : Clock := { s.clk with gen := s.clk.gen + 1 }
  let t := normalize c1.sec (c1.nsec.toNat + s.params.tickNs)
  let c2 : Clock := { c1 with sec := t.sec, nsec := t.ns }
  let c3 : Clock := { c2 with gen := c2.gen + 1 }
  { s with clk := c3 }

/-- k TICK events in a row (R339). -/
def ticks : Nat → State → State
  | 0, s => s
  | k + 1, s => ticks k (takeTick s)

end Sys2Proof.Machine
end

