-- ==== Sys2Proof/Machine/Operands.lean ====
section
/-! DEFINITION. The operand forms that are more than a plain word: timestamp operands (R113, R115), the CLKRD selector
(R155) and the fragment descriptors in memory (R114, R200). -/

namespace Sys2Proof.Machine

open Sys2Proof

/-- A timestamp operand, if it is valid (R115). -/
def tsOperand (sec ns : Word) : Option Timestamp := if ns.toNat < nsPerS then some ⟨sec, ns⟩ else none

/-- The clock register a CLKRD selector names: 0 SEC, 1 NSEC, 2 GEN (R155). -/
def clkOperand (k : Clock) (sel : Word) : Option Word :=
  if sel = 0 then some k.sec else if sel = 1 then some k.nsec else if sel = 2 then some k.gen else none

/-- The descriptor entry at address `a`: ADDR at +0, LEN at +4, read in that order (R114, R200). -/
def loadFrag (s : State) (a : Word) : Except Access Frag :=
  match loadWord s a with
  | .error e => .error e
  | .ok addr =>
    match loadWord s (a + 4) with
    | .error e => .error e
    | .ok len => .ok ⟨addr, len⟩

/-- `n` descriptor entries from address `a` on, 8 bytes apart, in order (R114, R201). -/
def loadFrags (s : State) (a : Word) : Nat → Except Access (List Frag)
  | 0 => .ok []
  | n + 1 =>
    match loadFrag s a with
    | .error e => .error e
    | .ok f =>
      match loadFrags s (a + 8) n with
      | .error e => .error e
      | .ok fs => .ok (f :: fs)

/-- The exact byte total of a fragment list: no wrap (R201, D7). -/
def totalLen (fs : List Frag) : Nat := (fs.map (fun f => f.len.toNat)).sum

end Sys2Proof.Machine
end

