-- ==== Sys2Proof/Machine/Flags.lean ====
section
/-! DEFINITION. The block has no condition codes (R53). Here are its predicates and the numbers its states and results are
spelled with: R38, R43, R47, R165, R205, R256, R331, and `first_nonempty` (R202). -/

namespace Sys2Proof.Machine

open Sys2Proof

/-- TX.STATE as its bit (R38). -/
def txStateBit : TxState → Word
  | .idle => 0
  | .draining => 1

/-- RX.STATE as its bit (R43). -/
def rxStateBit : RxState → Word
  | .unarmed => 0
  | .armed => 1

/-- RX.KIND as its number (R47). -/
def kindCode : RxKind → Word
  | .none => 0
  | .data => 1
  | .lineBreak => 2

/-- ST as its number (R331). -/
def statusCode : Status → Word
  | .ok => 0
  | .rejected => 1
  | .illegal => 2

/-- The result of CMP: 0 less, 1 equal, 2 greater (R165). -/
def orderCode : Ordering → Word
  | .lt => 0
  | .eq => 1
  | .gt => 2

/-- A truth value as a result word (R205, R256). -/
def boolCode (b : Bool) : Word := if b then 1 else 0

/-- tx_busy given the line's answer (R53, R205). -/
def txBusy (t : TxSide) (ready : Bool) : Bool := decide (t.state = .draining) || !ready

/-- rx_busy (R53, R256): `rxStateBit` says the same as a number. -/
def rxBusy (r : RxSide) : Bool := decide (r.state = .armed)

/-- `first_nonempty(c, j)` on the transmit side of channel c: the smallest k with j ≤ k < FCOUNT and FT[k].LEN > 0 (R202).
The table ends at 31 whatever FCOUNT holds. DEDUCED (log entry 13). -/
def firstNonempty (t : TxSide) (j : Nat) : Option (Fin 32) :=
  (List.finRange 32).find?
    (fun k => decide (j ≤ k.val) && decide (k.val < t.fcount.toNat) && decide (t.ft[k.val].len ≠ 0))

/-- The generation test of a reading attempt: both reads equal, and even (R156). -/
def genAccepts (g1 g2 : Word) : Bool := decide (g1 = g2) && decide (g1.toNat % 2 = 0)

/-- Trigger 2 of the idle-timeout detector: at least one byte stored, and the silence not LESS than the timeout (R252). -/
def idleElapsed (r : RxSide) (timeout t : Timestamp) : Bool :=
  decide (1 ≤ r.idx.toNat) && decide (tscmp (tsdelta t r.last) timeout ≠ .lt)

end Sys2Proof.Machine
end

