-- ==== Sys2Proof/Machine/Clock.lean ====
section
/-! DEFINITION. The clock family (40_clock.md): the coherent reading loop of NOW and HRNOW with its micro-steps, CLKRD, and
the pure commands DELTA, CMP and NORM. -/

namespace Sys2Proof.Machine

open Sys2Proof

/-- The command in progress goes on at the given place; it has returned nothing yet. -/
def State.pause (s : State) (m : Micro) : State := { s with micro := some m, resp := none }

/-- Whether the loop samples the sub-period counter: HRNOW, and the HRNOW inside RECV, when the counter exists (R159). -/
def samplesSub (s : State) : Reader → Bool
  | .now => false
  | .hrnow => s.params.hrPresent
  | .recv .. => s.params.hrPresent

/-- The time an accepted attempt yields: the pair read, or that pair with the sub-period part normalized in (R156, R159). -/
def readTime (sec ns : Word) : Option Word → Timestamp
  | none => ⟨sec, ns⟩
  | some sub => normalize sec (ns.toNat + sub.toNat)

/-- An accepted attempt: NOW and HRNOW return its time, RECV goes on to arm the slot with it (R156, R159, R250). -/
def acceptRead (s : State) (t : Timestamp) : Reader → State
  | .now => s.retOk t.sec t.ns
  | .hrnow => s.retOk t.sec t.ns
  | .recv c buf cap => s.pause (.arming c buf cap t)

/-- One micro-step of the loops of R156 and R159: one read, and at the second GEN read the test and the retry. -/
def readStep (s : State) (r : Reader) : ReadPhase → State
  | .gen1 => s.pause (.reading r (.sec s.clk.gen))
  | .sec g => s.pause (.reading r (.nsec g s.clk.sec))
  | .nsec g sec =>
    if samplesSub s r then s.pause (.reading r (.sub g sec s.clk.nsec))
    else s.pause (.reading r (.gen2 g sec s.clk.nsec none))
  | .sub g sec ns => (subTick s).2.pause (.reading r (.gen2 g sec ns (some (subTick s).1)))
  | .gen2 g sec ns sub =>
    if genAccepts g s.clk.gen then acceptRead s (readTime sec ns sub) r else s.pause (.reading r .gen1)

/-- NOW (R156): its first micro-step, the first GEN read; `readStep` takes the others. -/
def execNow (s : State) : Host.Outcome State Fault Refusal := .next (readStep s .now .gen1)

/-- HRNOW (R159): its first micro-step, the first GEN read; `readStep` takes the others. Without the sub-period counter it
performs NOW. -/
def execHrnow (s : State) : Host.Outcome State Fault Refusal := .next (readStep s .hrnow .gen1)

/-- DELTA (R163). -/
def execDelta (asec ans bsec bns : Word) (s : State) : Host.Outcome State Fault Refusal :=
  match tsOperand asec ans, tsOperand bsec bns with
  | some a, some b => .next (s.retOk (tsdelta a b).sec (tsdelta a b).ns)
  | _, _ => .next s.retIllegal

/-- CMP (R165). -/
def execCmp (asec ans bsec bns : Word) (s : State) : Host.Outcome State Fault Refusal :=
  match tsOperand asec ans, tsOperand bsec bns with
  | some a, some b => .next (s.retOk (orderCode (tscmp a b)) 0)
  | _, _ => .next s.retIllegal

/-- NORM (R166): any nanoseconds. -/
def execNorm (sec ns : Word) (s : State) : Host.Outcome State Fault Refusal :=
  .next (s.retOk (normalize sec ns.toNat).sec (normalize sec ns.toNat).ns)

/-- CLKRD (R155). -/
def execClkrd (sel : Word) (s : State) : Host.Outcome State Fault Refusal :=
  match clkOperand s.clk sel with
  | some v => .next (s.retOk v 0)
  | none => .next s.retIllegal

end Sys2Proof.Machine
end

