-- ==== Sys2Proof/Machine/Receive.lean ====
section
/-! DEFINITION. The receive family and the idle-timeout frame detector (42_rx.md): RECV, RXABORT, RXBUSY, RXSTAT and the
receive half of POLL. -/

namespace Sys2Proof.Machine

open Sys2Proof

/-- The slot an accepted RECV leaves: its seven writes (R250). -/
def armedSlot (buf cap : Word) (t : Timestamp) : RxSide := ⟨.armed, buf, cap, 0, t, .none, 0⟩

/-- RECV (R250): its two checks, then, in the same step, the first micro-step of its HRNOW; `microStep` takes the
others. DEDUCED (log entry 10). -/
def execRecv (c : Chan) (buf cap : Word) (s : State) : Host.Outcome State Fault Refusal :=
  if (s.rx c).state = .armed then .next s.retRejected
  else if cap = 0 ∨ byteMax < cap.toNat then .next s.retRejected
  else .next (readStep s (.recv c buf cap) .gen1)

/-- The last step of a RECV, one of its own after the HRNOW's: the seven writes, then OK (R250). DEDUCED (log entry 10). -/
def armSlot (s : State) (c : Chan) (buf cap : Word) (t : Timestamp) : State :=
  (s.setRx c (armedSlot buf cap t)).retOk 0 0

/-- One micro-step of the command in progress (R19, R48, R156, R159, R250). -/
def microStep (s : State) : Micro → State
  | .reading r p => readStep s r p
  | .arming c buf cap t => armSlot s c buf cap t

/-- `complete(c, n)` (R254). -/
def completeRx (r : RxSide) (n : Word) : RxSide := { r with kind := .data, len := n, state := .unarmed }

/-- `rx_complete_check(c, t)` (R252): buffer full first, then idle. -/
def checkComplete (r : RxSide) (timeout t : Timestamp) : RxSide :=
  if r.state = .armed then
    if r.idx = r.cap then completeRx r r.cap
    else if idleElapsed r timeout t then completeRx r r.idx
    else r
  else r

/-- The byte this POLL stores, if any: the line had one, the slot is armed, and no error came with it (R251). -/
def acceptedByte (r : RxSide) (ready : Bool) (got : Byte × Bool) : Option Byte :=
  if r.state = .armed then (if ready && !got.2 then some got.1 else none) else none

/-- `rx_step(c, t)` (R251): one HwRxReady; one HwRead when it answers 1, whatever the slot; the store; the check of R252. -/
def rxStep (s : State) (c : Chan) (t : Timestamp) : Progress :=
  let q := hwRxReady s c
  let g := hwRead q.2 c
  let s1 := if q.1 then g.2 else q.2
  match acceptedByte (s.rx c) q.1 g.1 with
  | none => .going (s1.setRx c (checkComplete (s.rx c) (s.timeout c) t))
  | some b =>
    let a := (s.rx c).buf + (s.rx c).idx
    if memOk s.params ⟨.write, a⟩ then
      .going ((storeByte s1 a b).setRx c
        (checkComplete { s.rx c with idx := (s.rx c).idx + 1, last := t } (s.timeout c) t))
    else .hung s1 ⟨.write, a⟩

/-- RXABORT (R255). -/
def execRxabort (c : Chan) (s : State) : Host.Outcome State Fault Refusal :=
  if (s.rx c).state = .armed then .next ((s.setRx c (completeRx (s.rx c) (s.rx c).idx)).retOk 0 0)
  else .next (s.retOk 0 0)

/-- RXBUSY (R256). -/
def execRxbusy (c : Chan) (s : State) : Host.Outcome State Fault Refusal :=
  .next (s.retOk (boolCode (rxBusy (s.rx c))) 0)

/-- RXSTAT (R257). -/
def execRxstat (c : Chan) (s : State) : Host.Outcome State Fault Refusal :=
  .next (s.retOk (kindCode (s.rx c).kind) (s.rx c).len)

end Sys2Proof.Machine
end

