-- ==== Sys2Proof/Machine/Transmit.lean ====
section
/-! DEFINITION. The transmit family (41_tx.md): SEND, TXABORT, TXBUSY and the transmit half of POLL. -/

namespace Sys2Proof.Machine

open Sys2Proof

/-- FT[0 .. count-1] <- the list; the other entries keep their values (R201). -/
def latchFrags (ft : Vector Frag 32) (fs : List Frag) : Vector Frag 32 :=
  Vector.ofFn (fun j : Fin 32 => (fs[j.val]?).getD ft[j.val])

/-- Fragment k becomes the in-flight one (R201, R203). -/
def beginFrag (t : TxSide) (k : Fin 32) : TxSide :=
  { t with fidx := BitVec.ofFin k, curAddr := t.ft[k.val].addr, curRem := t.ft[k.val].len }

/-- An accepted list: latched, its leading empty fragments skipped, DRAINING unless every fragment is empty (R201). -/
def acceptList (t : TxSide) (count : Word) (fs : List Frag) : TxSide :=
  let t1 := { t with ft := latchFrags t.ft fs, fcount := count.setWidth 6 }
  match firstNonempty t1 0 with
  | none => t1
  | some k => { beginFrag t1 k with state := .draining }

/-- SEND (R201), the checks in its order: empty list, busy, count cap, then the descriptors are read, then the total cap. -/
def execSend (c : Chan) (desc count : Word) (s : State) : Host.Outcome State Fault Refusal :=
  if count = 0 then .next (s.retOk 0 0)
  else if (s.tx c).state = .draining then .next s.retRejected
  else if fragMax < count.toNat then .next s.retRejected
  else
    match loadFrags s desc count.toNat with
    | .error a => .next (s.hang a)
    | .ok fs =>
      if byteMax < totalLen fs then .next s.retRejected
      else .next ((s.setTx c (acceptList (s.tx c) count fs)).retOk 0 0)

/-- The transmit side after one byte of the in-flight fragment has gone out (R203). At CUR_REM = 0, which R42 excludes, the
subtraction wraps in the register's width. DEDUCED (log entry 13). -/
def advanceTx (t : TxSide) : TxSide :=
  let t1 := { t with curAddr := t.curAddr + 1, curRem := t.curRem - 1 }
  if t1.curRem = 0 then
    match firstNonempty t1 (t1.fidx.toNat + 1) with
    | none => { t1 with state := .idle }
    | some k => beginFrag t1 k
  else t1

/-- `tx_step(c)` (R203). -/
def txStep (s : State) (c : Chan) : Progress :=
  if (s.tx c).state = .idle then .going s
  else
    let q := hwTxReady s c
    if q.1 then
      match loadByte q.2 (s.tx c).curAddr with
      | .error a => .hung q.2 a
      | .ok b => .going ((hwWrite q.2 c b).setTx c (advanceTx (s.tx c)))
    else .going q.2

/-- TXABORT (R204). -/
def execTxabort (c : Chan) (s : State) : Host.Outcome State Fault Refusal :=
  .next ((s.setTx c TxSide.zero).retOk 0 0)

/-- TXBUSY (R205): one HwTxReady, in every state of the channel. -/
def execTxbusy (c : Chan) (s : State) : Host.Outcome State Fault Refusal :=
  let q := hwTxReady s c
  .next (q.2.retOk (boolCode (txBusy (s.tx c) q.1)) 0)

end Sys2Proof.Machine
end

