-- ==== Sys2Proof/Machine/Poll.lean ====
section
/-! DEFINITION. POLL (43_poll.md): the transmit half, then the receive half, of one channel. -/

namespace Sys2Proof.Machine

open Sys2Proof

/-- Both halves of a POLL in order (R300); a refused access in the first leaves the second undone (R81). -/
def pollBoth (s : State) (c : Chan) (t : Timestamp) : Progress :=
  match txStep s c with
  | .hung s1 a => .hung s1 a
  | .going s1 => rxStep s1 c t

/-- POLL (R300). -/
def execPoll (c : Chan) (tsec tns : Word) (s : State) : Host.Outcome State Fault Refusal :=
  match tsOperand tsec tns with
  | none => .next s.retIllegal
  | some t => .next (conclude (pollBoth s c t))

end Sys2Proof.Machine
end

