-- ==== Sys2Proof/Machine/Dispatch.lean ====
section
/-! DEFINITION. exec: one arm per instruction of spec/opcode_table.json, each one call of that instruction's meaning. -/

namespace Sys2Proof.Machine

open Sys2Proof

def exec (i : Instr) (s : State) : Host.Outcome State Fault Refusal :=
  match i with
  | .now => Sys2Proof.Machine.execNow s
  | .hrnow => Sys2Proof.Machine.execHrnow s
  | .delta asec ans bsec bns => Sys2Proof.Machine.execDelta asec ans bsec bns s
  | .cmp asec ans bsec bns => Sys2Proof.Machine.execCmp asec ans bsec bns s
  | .norm sec ns => Sys2Proof.Machine.execNorm sec ns s
  | .clkrd sel => Sys2Proof.Machine.execClkrd sel s
  | .send c desc count => Sys2Proof.Machine.execSend c desc count s
  | .txabort c => Sys2Proof.Machine.execTxabort c s
  | .txbusy c => Sys2Proof.Machine.execTxbusy c s
  | .recv c buf cap => Sys2Proof.Machine.execRecv c buf cap s
  | .rxabort c => Sys2Proof.Machine.execRxabort c s
  | .rxbusy c => Sys2Proof.Machine.execRxbusy c s
  | .rxstat c => Sys2Proof.Machine.execRxstat c s
  | .poll c tsec tns => Sys2Proof.Machine.execPoll c tsec tns s

end Sys2Proof.Machine
end

