-- ==== Sys2Proof/Machine/Turns.lean ====
section
/-! DEFINITION. The turns of the two agents that move (R6, R339): the tick source, and the host, who goes on with the command
in progress, presents the next command, writes its own memory, or does neither. -/

namespace Sys2Proof.Machine

open Sys2Proof

/-- A presented command: decoded (R116), then its own rule. -/
def present (k : Command) (s : State) : Host.Outcome State Fault Refusal :=
  match decode s.params.nchan k with
  | .error _ => .next s.retIllegal
  | .ok i => exec i s

/-- The host's next act and the state with it taken (R32). -/
def nextAct (s : State) : HostAct × State :=
  let d := draw Config.freeHostAct s.host
  (d.1, { s with host := d.2 })

/-- One act of the host between commands (R32, R92). The block waits while the host presents nothing (R371); the host's own
store is not an access of the block and P_MEM_OK does not check it (R81, R92). DEDUCED (log entry 12). -/
def hostAct (a : HostAct) (s : State) : Host.Outcome State Fault Refusal :=
  match a with
  | .idle => .next s
  | .store addr b => .next (storeByte s addr b)
  | .command k => present k s

/-- A turn of the host: stuck (R81), in the middle of a command (R19), or between commands. -/
def hostTurn (s : State) : Host.Outcome State Fault Refusal :=
  match s.stuck with
  | some a => .fault (.stuck a)
  | none =>
    match s.micro with
    | some m => .next (microStep s m)
    | none => hostAct (nextAct s).1 (nextAct s).2

/-- The turn taken next and the state with it taken (R339). -/
def nextTurn (s : State) : Turn × State :=
  let d := draw Config.freeTurn s.turns
  (d.1, { s with turns := d.2 })

/-- One turn of the agent named (R339). -/
def takeTurn (t : Turn) (s : State) : Host.Outcome State Fault Refusal :=
  match t with
  | .tick => .next (takeTick s)
  | .host => hostTurn s

/-- The state in which the host's turn comes next and it presents `k`: queued ahead of everything, nothing in progress. -/
def queueCommand (s : State) (k : Command) : State :=
  { s with
    micro := none
    stuck := none
    turns := { s.turns with queue := .host :: s.turns.queue }
    host  := { s.host with queue := .command k :: s.host.queue } }

end Sys2Proof.Machine
end

