-- ==== Sys2Proof/Machine/Step.lean ====
section
/-! DEFINITION. One step of the machine: the agent whose turn it is takes one indivisible step (R6, R19, R153, R339). -/

namespace Sys2Proof.Machine

open Sys2Proof

/-- One step. -/
def step (s : State) : Host.Outcome State Fault Refusal := takeTurn (nextTurn s).1 (nextTurn s).2

/-- `s` with the host about to present the command whose bits are `w`, so that `step` decodes and runs exactly it. The block
fetches nothing (R32): presenting is the host's, and log entry 3 says how a program comes to run. -/
def State.withFetchWord (s : State) (nbits w : Nat) : State := queueCommand s (tableCommand nbits w)

end Sys2Proof.Machine
end

