-- ==== Sys2Proof/Safety.lean ====
section
/-! DEFINITION. What a good state and a good run are, in the terms claims use: the invariants of 10_state.md (R36, R42, R49)
and of the rules around them, the value a timestamp denotes (R150), the bytes a transmission still owes (R206), and runs of
commands. -/

namespace Sys2Proof.Machine

open Sys2Proof

/-- The nanoseconds a timestamp denotes (R150). -/
def tsValue (t : Timestamp) : Nat := t.sec.toNat * nsPerS + t.ns.toNat

/-- The clock's wrap period in nanoseconds (R150, R168). -/
def wrapPeriod : Nat := 2 ^ 32 * nsPerS

/-- The wall timestamp (R33, R34). -/
def Clock.time (k : Clock) : Timestamp := ⟨k.sec, k.nsec⟩

/-- The addresses of a fragment's bytes, in ascending order modulo 2^32 (R84). -/
def fragAddrs (f : Frag) : List Word := (List.range f.len.toNat).map (fun k => f.addr + BitVec.ofNat 32 k)

/-- The fragments not yet started: FT[j] with FIDX < j < FCOUNT (R39). -/
def queuedFrags (t : TxSide) : List Frag := (t.ft.toList.take t.fcount.toNat).drop (t.fidx.toNat + 1)

/-- The addresses of the bytes a transmit side still owes, in the order it will send them (R84, R206). -/
def pendingAddrs (t : TxSide) : List Word :=
  match t.state with
  | .idle => []
  | .draining => fragAddrs ⟨t.curAddr, t.curRem⟩ ++ (queuedFrags t).flatMap fragAddrs

/-- The transmit invariant (R42). -/
def TxSide.good (t : TxSide) : Prop :=
  t.fcount.toNat ≤ fragMax ∧
  totalLen (t.ft.toList.take t.fcount.toNat) ≤ byteMax ∧
  (t.state = .draining → 1 ≤ t.curRem.toNat ∧ t.fidx.toNat < t.fcount.toNat)

/-- A capacity a RECV accepts (R44, R250). -/
def capGood (cap : Word) : Prop := 1 ≤ cap.toNat ∧ cap.toNat ≤ byteMax

/-- The receive invariant (R49), with RX.LAST always a valid timestamp (R46, R115). -/
def RxSide.good (r : RxSide) : Prop :=
  tsValid r.last ∧ r.kind ≠ .lineBreak ∧
  (r.kind = .data → r.len.toNat ≤ r.cap.toNat) ∧
  (r.state = .armed → capGood r.cap ∧ r.idx.toNat < r.cap.toNat ∧ r.kind = .none)

/-- A channel the instance does not have keeps its reset context (R11, R116). -/
def Channel.untouched (k : Channel) : Prop := k = ⟨TxSide.zero, RxSide.zero⟩

/-- The reader of a loop in progress: a RECV has passed its checks and its channel is still UNARMED (R250). -/
def readerGood (s : State) : Reader → Prop
  | .now => True
  | .hrnow => True
  | .recv c _ cap => c.val < s.params.nchan ∧ capGood cap ∧ (s.rx c).state = .unarmed

/-- The values a loop in progress has read: an even generation (R153), nanoseconds below 1e9 (R36), a sub-period reading
below P_TICK_NS (R12). -/
def phaseGood (p : Params) : ReadPhase → Prop
  | .gen1 => True
  | .sec g => g.toNat % 2 = 0
  | .nsec g _ => g.toNat % 2 = 0
  | .sub g _ n => g.toNat % 2 = 0 ∧ n.toNat < nsPerS
  | .gen2 g _ n sub => g.toNat % 2 = 0 ∧ n.toNat < nsPerS ∧ ∀ v, sub = some v → v.toNat < p.tickNs

/-- The micro-step state (R48). -/
def microGood (s : State) : Micro → Prop
  | .reading r p => readerGood s r ∧ phaseGood s.params p
  | .arming c _ cap t => c.val < s.params.nchan ∧ capGood cap ∧ (s.rx c).state = .unarmed ∧ tsValid t

/-- A response (R110, R113): RES2 is 0, and every result word is 0 unless ST is OK. -/
def Response.good (r : Response) : Prop := r.res2 = 0 ∧ (r.st ≠ .ok → r.res0 = 0 ∧ r.res1 = 0)

/-- What holds of every state an agent can observe. -/
structure State.Inv (s : State) : Prop where
  /-- The parameters are within the spec's bounds (R11, R12). -/
  params : s.params.wf = true
  /-- CLK.NSEC < 1e9 (R36). -/
  nsec   : s.clk.nsec.toNat < nsPerS
  /-- CLK.GEN is even between steps (R153). -/
  gen    : s.clk.gen.toNat % 2 = 0
  /-- Memory is in canonical form. -/
  mem    : memWf s.mem = true
  /-- R42. -/
  tx     : ∀ c, (s.tx c).good
  /-- R49. -/
  rx     : ∀ c, (s.rx c).good
  /-- R11: no channel at or above P_NCHAN. -/
  absent : ∀ c : Chan, s.params.nchan ≤ c.val → (s.chan c).untouched ∧ s.log c = []
  /-- R48. -/
  micro  : ∀ m, s.micro = some m → microGood s m
  /-- A stuck command is no command in micro-steps, and has returned nothing (R330). -/
  stuck  : ∀ a, s.stuck = some a → s.micro = none ∧ s.resp = none ∧ memOk s.params a = false
  /-- R110. -/
  resp   : ∀ r, s.resp = some r → r.good

/-- No command is in progress or stuck: the host may present one. -/
def State.free (s : State) : Prop := s.micro = none ∧ s.stuck = none

/-- The commands of a list one after another, no other agent in between. -/
def execAll : List Instr → State → Host.Outcome State Fault Refusal
  | [], s => .next s
  | i :: is, s =>
    match exec i s with
    | .next t => execAll is t
    | .fault r => .fault r
    | .refused r => .refused r

/-- k micro-steps of the command in progress, no other agent in between; it stops where the command has ended. -/
def microSteps : Nat → State → State
  | 0, s => s
  | k + 1, s =>
    match s.micro with
    | none => s
    | some m => microSteps k (microStep s m)

/-- A step that is not stopped. -/
def State.safe (s : State) : Prop := ∃ t, step s = .next t

/-- The lines' accesses so far on channel c: HwTxReady, HwRxReady and HwRead answers taken (R302). -/
def lineUses (s : State) (c : Chan) : Nat × Nat × Nat :=
  ((s.line c).txReady.taken, (s.line c).rxReady.taken, (s.line c).read.taken)

end Sys2Proof.Machine
end

