-- ==== Sys2Proof/Certificates/Slice0/Obligations.lean ====
section
/-! DEFINITION. The statements for the provers. Each docstring names the rule of spec/ it formalises. -/

open Sys2Proof Sys2Proof.Machine

/-! ## Encoding -/

/-- R111, R112, R113, R116: every well-formed instruction, with every operand value, decodes from its own encoding. -/
def Obligations.DecodeEncodeRoundTrip : Prop :=
  ∀ (nchan : Nat) (i : Instr), i.wf nchan = true → decode nchan (encode i) = .ok i

/-- R111, R116: a command that decodes is spelled by exactly one command word, its instruction's own, on a channel the
instance has. -/
def Obligations.DecodedWordIsTheEncodedWord : Prop :=
  ∀ (nchan : Nat) (k : Command) (i : Instr),
    decode nchan k = .ok i → (encode i).word = k.word ∧ i.wf nchan = true

/-- R110: operand words a command does not use are ignored, and those it uses are read whole. -/
def Obligations.UnusedOperandWordsAreIgnored : Prop :=
  (∀ (nchan : Nat) (k k' : Command) (i : Instr),
    decode nchan k = .ok i → k'.word = k.word →
      k'.operands.take i.op.arity = k.operands.take i.op.arity → decode nchan k' = .ok i) ∧
  (∀ (nchan : Nat) (k k' : Command) (i : Instr),
    decode nchan k = .ok i → decode nchan k' = .ok i → k'.operands.take i.op.arity = k.operands.take i.op.arity)

/-- R116, on the word as a number: RSV is bits 31:12, CH bits 11:8, OPC bits 7:0. -/
def Obligations.IllegalWordsAreExactlyTheseFour : Prop :=
  ∀ (nchan : Nat) (k : Command),
    (∃ e, decode nchan k = .error e) ↔
      (k.word.toNat / 4096 ≠ 0 ∨
        k.word.toNat % 256 ∉ [0x01, 0x02, 0x03, 0x04, 0x05, 0x06, 0x10, 0x11, 0x12, 0x20, 0x21, 0x22, 0x23, 0x30] ∨
        (k.word.toNat % 256 ≤ 0x06 ∧ k.word.toNat / 256 % 16 ≠ 0) ∨
        (0x10 ≤ k.word.toNat % 256 ∧ nchan ≤ k.word.toNat / 256 % 16))

/-- R120: the quick-reference table, channel 0 and channel 3, for an instance with four channels. -/
def Obligations.SpecWordsDecode : Prop :=
  (∀ a b c d : Word,
    decode 4 ⟨0x00000001, a, b, c, d⟩ = .ok .now ∧
    decode 4 ⟨0x00000002, a, b, c, d⟩ = .ok .hrnow ∧
    decode 4 ⟨0x00000003, a, b, c, d⟩ = .ok (.delta a b c d) ∧
    decode 4 ⟨0x00000004, a, b, c, d⟩ = .ok (.cmp a b c d) ∧
    decode 4 ⟨0x00000005, a, b, c, d⟩ = .ok (.norm a b) ∧
    decode 4 ⟨0x00000006, a, b, c, d⟩ = .ok (.clkrd a) ∧
    decode 4 ⟨0x00000010, a, b, c, d⟩ = .ok (.send 0 a b) ∧
    decode 4 ⟨0x00000310, a, b, c, d⟩ = .ok (.send 3 a b) ∧
    decode 4 ⟨0x00000011, a, b, c, d⟩ = .ok (.txabort 0) ∧
    decode 4 ⟨0x00000311, a, b, c, d⟩ = .ok (.txabort 3) ∧
    decode 4 ⟨0x00000012, a, b, c, d⟩ = .ok (.txbusy 0) ∧
    decode 4 ⟨0x00000312, a, b, c, d⟩ = .ok (.txbusy 3) ∧
    decode 4 ⟨0x00000020, a, b, c, d⟩ = .ok (.recv 0 a b) ∧
    decode 4 ⟨0x00000320, a, b, c, d⟩ = .ok (.recv 3 a b) ∧
    decode 4 ⟨0x00000021, a, b, c, d⟩ = .ok (.rxabort 0) ∧
    decode 4 ⟨0x00000321, a, b, c, d⟩ = .ok (.rxabort 3) ∧
    decode 4 ⟨0x00000022, a, b, c, d⟩ = .ok (.rxbusy 0) ∧
    decode 4 ⟨0x00000322, a, b, c, d⟩ = .ok (.rxbusy 3) ∧
    decode 4 ⟨0x00000023, a, b, c, d⟩ = .ok (.rxstat 0) ∧
    decode 4 ⟨0x00000323, a, b, c, d⟩ = .ok (.rxstat 3) ∧
    decode 4 ⟨0x00000030, a, b, c, d⟩ = .ok (.poll 0 a b) ∧
    decode 4 ⟨0x00000330, a, b, c, d⟩ = .ok (.poll 3 a b)) ∧
  (∀ a b c d : Word, ∀ w ∈ ([0x00000301, 0x00000302, 0x00000303, 0x00000304, 0x00000305, 0x00000306] : List Word),
    decode 4 ⟨w, a, b, c, d⟩ = .error .clockChannel) ∧
  (∀ nchan < 4, ∀ a b c d : Word,
    ∀ w ∈ ([0x00000310, 0x00000311, 0x00000312, 0x00000320, 0x00000321, 0x00000322, 0x00000323, 0x00000330] : List Word),
      decode nchan ⟨w, a, b, c, d⟩ = .error .noSuchChannel)

/-! ## Steps -/

/-- R32, R116, R339: a host turn that presents a legal command runs exactly its instruction; around exec the step only uses
up the turn and the host's act. -/
def Obligations.StepRunsTheDecodedInstruction : Prop :=
  ∀ (s : State) (ts : List Turn) (as : List HostAct) (k : Command) (i : Instr),
    s.free → s.turns.queue = .host :: ts → s.host.queue = .command k :: as → decode s.params.nchan k = .ok i →
      step s = exec i { s with turns := ⟨ts, s.turns.taken + 1⟩, host := ⟨as, s.host.taken + 1⟩ }

/-- R116, R334: a host turn that presents an illegal word returns ILLEGAL with result words 0 and changes nothing else. -/
def Obligations.StepAnswersIllegalWords : Prop :=
  ∀ (s : State) (ts : List Turn) (as : List HostAct) (k : Command) (e : DecodeError),
    s.free → s.turns.queue = .host :: ts → s.host.queue = .command k :: as → decode s.params.nchan k = .error e →
      step s = .next { s with
        turns := ⟨ts, s.turns.taken + 1⟩, host := ⟨as, s.host.taken + 1⟩, resp := some ⟨.illegal, 0, 0, 0⟩ }

/-- R152, R338, R340: a TICK, in every state, also in the middle of a command or with one stuck, writes the clock and
nothing else; its result is that of its three writes. -/
def Obligations.StepTakesTheTick : Prop :=
  ∀ (s : State) (ts : List Turn), s.turns.queue = .tick :: ts →
    step s = .next { s with
      turns := ⟨ts, s.turns.taken + 1⟩
      clk := ⟨(normalize s.clk.sec (s.clk.nsec.toNat + s.params.tickNs)).sec,
        (normalize s.clk.sec (s.clk.nsec.toNat + s.params.tickNs)).ns, s.clk.gen + 1 + 1⟩ }

/-- R19, R48: a host turn in the middle of a command takes its next micro-step and presents nothing. -/
def Obligations.HostTurnContinuesTheCommand : Prop :=
  ∀ (s : State) (ts : List Turn) (m : Micro),
    s.stuck = none → s.micro = some m → s.turns.queue = .host :: ts →
      step s = .next (microStep { s with turns := ⟨ts, s.turns.taken + 1⟩ } m)

/-- R81, R330: a stuck command has no step, while the tick source still moves. -/
def Obligations.StuckCommandHasNoStep : Prop :=
  ∀ (s : State) (ts : List Turn) (a : Access), s.stuck = some a →
    (s.turns.queue = .host :: ts → step s = .fault (.stuck a)) ∧
    (s.turns.queue = .tick :: ts → ∃ t, step s = .next t ∧ t.stuck = some a ∧ t.micro = s.micro)

/-- R92, R93: between commands the host writes its memory, the next command sees the byte, and nothing else moves. That the
store succeeds at every address, with no P_MEM_OK premise, is the model's reading and no rule of the spec: R81 checks the
accesses the SFB performs, and the host's own are taken as none of them (log entry 12, DEDUCED). -/
def Obligations.HostStoreIsSeen : Prop :=
  ∀ (s : State) (ts : List Turn) (as : List HostAct) (a : Word) (b : Byte),
    memWf s.mem = true → s.free → s.turns.queue = .host :: ts → s.host.queue = .store a b :: as →
      ∃ t, step s = .next t ∧ memRead t.mem a.toNat = b ∧ (∀ x, x ≠ a.toNat → memRead t.mem x = memRead s.mem x) ∧
        t = { s with turns := ⟨ts, s.turns.taken + 1⟩, host := ⟨as, s.host.taken + 1⟩, mem := t.mem }

/-! ## Clock -/

/-- R152, R168: one TICK adds exactly P_TICK_NS modulo the wrap period, keeps the timestamp valid, and adds 2 to CLK.GEN. -/
def Obligations.TickAddsExactlyOnePeriod : Prop :=
  ∀ s : State, s.params.wf = true → s.clk.nsec.toNat < nsPerS →
    tsValue (takeTick s).clk.time = (tsValue s.clk.time + s.params.tickNs) % wrapPeriod ∧
    tsValid (takeTick s).clk.time ∧
    (takeTick s).clk.gen = s.clk.gen + 2 ∧
    takeTick s = { s with clk := (takeTick s).clk }

/-- R167 law 4: the clock after k TICKs, with CLK.GEN advanced by 2k. -/
def Obligations.ClockAfterTicks : Prop :=
  ∀ (k : Nat) (s : State), s.params.wf = true → s.clk.nsec.toNat < nsPerS →
    (ticks k s).clk.time = tsadd s.clk.time
      ⟨BitVec.ofNat 32 (k * s.params.tickNs / nsPerS), BitVec.ofNat 32 (k * s.params.tickNs % nsPerS)⟩ ∧
    (ticks k s).clk.gen = s.clk.gen + BitVec.ofNat 32 (2 * k)

/-- R37: no host turn, whatever it does, writes the clock or a parameter. -/
def Obligations.OnlyTheTickWritesTheClock : Prop :=
  ∀ s t : State, hostTurn s = .next t → t.clk = s.clk ∧ t.params = s.params

/-- R151: the loop and the closed form agree on every number below 2^33, and the result is valid. -/
def Obligations.NormalizeLoopAgreesWithItsClosedForm : Prop :=
  ∀ (s : Word) (n : Nat), n < 2 ^ 33 → normalizeLoop 9 s n = normalize s n ∧ tsValid (normalize s n)

/-- R162, R163: DELTA is subtraction modulo the wrap period on valid operands and ILLEGAL on any other. -/
def Obligations.DeltaSubtractsModuloTheWrapPeriod : Prop :=
  ∀ (s : State) (a b : Timestamp),
    (tsValid a ∧ tsValid b → ∃ d, exec (.delta a.sec a.ns b.sec b.ns) s = .next (s.ret .ok d.sec d.ns) ∧
      tsValid d ∧ tsValue d = (tsValue a + wrapPeriod - tsValue b) % wrapPeriod) ∧
    (¬ (tsValid a ∧ tsValid b) → exec (.delta a.sec a.ns b.sec b.ns) s = .next (s.ret .illegal 0 0))

/-- R167 laws 1 and 2. -/
def Obligations.DeltaUndoesAddition : Prop :=
  ∀ b d : Timestamp, tsValid b → tsValid d → tsdelta b b = ⟨0, 0⟩ ∧ tsdelta (tsadd b d) b = d

/-- R167 law 3, R164: tscmp is a total order. -/
def Obligations.CompareIsATotalOrder : Prop :=
  ∀ a b c : Timestamp,
    (tscmp a b = .eq ↔ a = b) ∧ (tscmp a b = .gt ↔ tscmp b a = .lt) ∧
    (tscmp a b ≠ .gt → tscmp b c ≠ .gt → tscmp a c ≠ .gt)

/-- R164, R165: CMP compares the values its valid operands denote, without regard to wraparound. -/
def Obligations.CmpComparesTimestampValues : Prop :=
  ∀ (s : State) (a b : Timestamp),
    (tsValid a ∧ tsValid b → exec (.cmp a.sec a.ns b.sec b.ns) s = .next (s.ret .ok
      (if tsValue a < tsValue b then 0 else if tsValue a = tsValue b then 1 else 2) 0)) ∧
    (¬ (tsValid a ∧ tsValid b) → exec (.cmp a.sec a.ns b.sec b.ns) s = .next (s.ret .illegal 0 0))

/-- R166: NORM, for every pair of words. -/
def Obligations.NormCarriesIntoSeconds : Prop :=
  ∀ (s : State) (sec ns : Word), ∃ rs rn : Word,
    exec (.norm sec ns) s = .next (s.ret .ok rs rn) ∧
    rs.toNat = (sec.toNat + ns.toNat / 1000000000) % 2 ^ 32 ∧ rn.toNat = ns.toNat % 1000000000

/-- R155: CLKRD, every selector. -/
def Obligations.ClkrdReadsOneClockRegister : Prop :=
  ∀ s : State,
    exec (.clkrd 0) s = .next (s.ret .ok s.clk.sec 0) ∧
    exec (.clkrd 1) s = .next (s.ret .ok s.clk.nsec 0) ∧
    exec (.clkrd 2) s = .next (s.ret .ok s.clk.gen 0) ∧
    ∀ sel : Word, 3 ≤ sel.toNat → exec (.clkrd sel) s = .next (s.ret .illegal 0 0)

/-- R156, R158: NOW with no TICK between its micro-steps: it starts with the GEN read and returns the wall timestamp three
micro-steps later, having changed nothing else. -/
def Obligations.NowReturnsTheClockWhenUndisturbed : Prop :=
  ∀ s : State, s.clk.gen.toNat % 2 = 0 →
    ∃ t, exec .now s = .next t ∧ t = { s with micro := some (.reading .now (.sec s.clk.gen)), resp := none } ∧
      microSteps 3 t = s.ret .ok s.clk.sec s.clk.nsec

/-- R156, R157 (and U20's bound): an attempt of NOW with n1, n2, n3 TICKs between its micro-steps returns the clock that
held throughout when there were none, and starts over with nothing returned when there were any, fewer than 2^31. -/
def Obligations.NowIsCoherentOrRetries : Prop :=
  ∀ (s : State) (n1 n2 n3 : Nat), s.clk.gen.toNat % 2 = 0 → n1 + n2 + n3 < 2 ^ 31 →
    ∃ t, exec .now s = .next t ∧
      (n1 + n2 + n3 = 0 → microSteps 1 (ticks n3 (microSteps 1 (ticks n2 (microSteps 1 (ticks n1 t))))) =
        s.ret .ok s.clk.sec s.clk.nsec) ∧
      (0 < n1 + n2 + n3 → microSteps 1 (ticks n3 (microSteps 1 (ticks n2 (microSteps 1 (ticks n1 t))))) =
        { ticks (n1 + n2 + n3) s with micro := some (.reading .now .gen1), resp := none })

/-- R159: HRNOW with no TICK between its micro-steps: the wall timestamp plus a reading below the tick period when the
sub-period counter exists, NOW when it does not. -/
def Obligations.HrnowRefinesTheClockWhenUndisturbed : Prop :=
  ∀ s : State, s.params.wf = true → s.clk.nsec.toNat < nsPerS → s.clk.gen.toNat % 2 = 0 →
    ∃ t, exec .hrnow s = .next t ∧ t.micro = some (.reading .hrnow (.sec s.clk.gen)) ∧
      (s.params.hrPresent = true → ∃ (sub : Nat) (d : Timestamp) (q : Draws Word), sub < s.params.tickNs ∧ tsValid d ∧
        tsValue d = (tsValue s.clk.time + sub) % wrapPeriod ∧ q.taken = s.subTicks.taken + 1 ∧
        (∀ x xs, s.subTicks.queue = x :: xs → sub = x.toNat % s.params.tickNs ∧ q.queue = xs) ∧
        microSteps 4 t = State.ret { s with subTicks := q } .ok d.sec d.ns) ∧
      (s.params.hrPresent = false → microSteps 3 t = s.ret .ok s.clk.sec s.clk.nsec)

/-- R159, R156: an attempt of HRNOW in which a TICK fell, fewer than 2^31 of them, returns nothing and starts over. -/
def Obligations.HrnowRetriesAfterATick : Prop :=
  ∀ (s : State) (n1 n2 n3 n4 : Nat), s.params.hrPresent = true → s.clk.gen.toNat % 2 = 0 →
    0 < n1 + n2 + n3 + n4 → n1 + n2 + n3 + n4 < 2 ^ 31 →
      ∃ t u, exec .hrnow s = .next t ∧
        u = microSteps 1 (ticks n4 (microSteps 1 (ticks n3 (microSteps 1 (ticks n2 (microSteps 1 (ticks n1 t))))))) ∧
        u.micro = some (.reading .hrnow .gen1) ∧ u.resp = none ∧ u.clk = (ticks (n1 + n2 + n3 + n4) s).clk

/-! ## Transmit side -/

/-- R202: `first_nonempty` is the smallest index of a non-empty fragment at or after j and below FCOUNT. -/
def Obligations.FirstNonemptyIsTheSmallest : Prop :=
  ∀ (t : TxSide) (j : Nat),
    (∀ k : Fin 32, firstNonempty t j = some k ↔
      (j ≤ k.val ∧ k.val < t.fcount.toNat ∧ t.ft[k.val].len ≠ 0 ∧
        ∀ m : Fin 32, j ≤ m.val → m.val < k.val → t.ft[m.val].len = 0)) ∧
    (firstNonempty t j = none ↔ ∀ k : Fin 32, j ≤ k.val → k.val < t.fcount.toNat → t.ft[k.val].len = 0)

/-- R86, R114, R200: entry j of a descriptor array lies at A0 + 8j modulo 2^32, its two words little-endian at any
alignment, and the reads change nothing. -/
def Obligations.DescriptorsAreReadLittleEndian : Prop :=
  ∀ (s : State) (a : Word) (n : Nat), (∀ k < 8 * n, memOk s.params ⟨.read, a + BitVec.ofNat 32 k⟩ = true) →
    let b := fun k : Nat => (memRead s.mem (a + BitVec.ofNat 32 k).toNat).toNat
    let w := fun k : Nat => BitVec.ofNat 32 (b k + 256 * b (k + 1) + 65536 * b (k + 2) + 16777216 * b (k + 3))
    loadFrags s a n = .ok ((List.range n).map (fun j => Frag.mk (w (8 * j)) (w (8 * j + 4))))

/-- R81, R201: SEND is stuck on the first descriptor byte the platform does not admit, with nothing of the channel changed. -/
def Obligations.SendIsStuckOnARefusedDescriptorByte : Prop :=
  ∀ (s : State) (c : Chan) (desc count : Word) (k : Nat),
    (s.tx c).state = .idle → 1 ≤ count.toNat → count.toNat ≤ fragMax → k < 8 * count.toNat →
    (∀ j < k, memOk s.params ⟨.read, desc + BitVec.ofNat 32 j⟩ = true) →
    memOk s.params ⟨.read, desc + BitVec.ofNat 32 k⟩ = false →
      exec (.send c desc count) s =
        .next { s with stuck := some ⟨.read, desc + BitVec.ofNat 32 k⟩, resp := none }

/-- R201, R208, R332: when SEND does nothing: OK for the empty list in every state, REJECTED when draining, over the count
cap, or over the total cap, the total taken without wrap. -/
def Obligations.SendEmptyOrRejectedChangesNothing : Prop :=
  ∀ (s : State) (c : Chan) (desc count : Word),
    (count = 0 → exec (.send c desc count) s = .next (s.ret .ok 0 0)) ∧
    (count ≠ 0 → (s.tx c).state = .draining → exec (.send c desc count) s = .next (s.ret .rejected 0 0)) ∧
    (fragMax < count.toNat → exec (.send c desc count) s = .next (s.ret .rejected 0 0)) ∧
    (∀ fs, count ≠ 0 → count.toNat ≤ fragMax → (s.tx c).state = .idle → loadFrags s desc count.toNat = .ok fs →
      byteMax < totalLen fs → exec (.send c desc count) s = .next (s.ret .rejected 0 0))

/-- R201, R202, R206: an accepted list is latched whole; the channel then owes exactly the bytes of its fragments in order,
is DRAINING at its first non-empty fragment, or stays IDLE with the in-flight fields untouched when all are empty. -/
def Obligations.SendLatchesTheList : Prop :=
  ∀ (s : State) (c : Chan) (desc count : Word) (fs : List Frag),
    (s.tx c).state = .idle → 1 ≤ count.toNat → count.toNat ≤ fragMax → loadFrags s desc count.toNat = .ok fs →
    totalLen fs ≤ byteMax →
      ∃ x : TxSide, exec (.send c desc count) s = .next ((s.setTx c x).ret .ok 0 0) ∧
        x.fcount.toNat = count.toNat ∧ fs.length = count.toNat ∧
        (∀ (j : Fin 32) (h : j.val < fs.length), x.ft[j.val] = fs[j.val]) ∧
        (∀ j : Fin 32, fs.length ≤ j.val → x.ft[j.val] = (s.tx c).ft[j.val]) ∧
        pendingAddrs x = fs.flatMap fragAddrs ∧
        (totalLen fs = 0 → x.state = .idle ∧ x.fidx = (s.tx c).fidx ∧ x.curAddr = (s.tx c).curAddr ∧
          x.curRem = (s.tx c).curRem) ∧
        (totalLen fs ≠ 0 → x.state = .draining ∧
          ∃ h : x.fidx.toNat < fs.length, x.curAddr = fs[x.fidx.toNat].addr ∧ x.curRem = fs[x.fidx.toNat].len ∧
            x.curRem ≠ 0 ∧ ∀ f ∈ fs.take x.fidx.toNat, f.len = 0)

/-- R204: TXABORT clears all of CH[c].TX and touches nothing else, TXLOG and the line included. -/
def Obligations.TxabortClearsTheTransmitSide : Prop :=
  ∀ (s : State) (c : Chan), ∃ x : TxSide, exec (.txabort c) s = .next ((s.setTx c x).ret .ok 0 0) ∧
    x.state = .idle ∧ x.fcount = 0 ∧ x.fidx = 0 ∧ x.curAddr = 0 ∧ x.curRem = 0 ∧
    ∀ j : Fin 32, x.ft[j.val] = ⟨0, 0⟩

/-- R205: TXBUSY asks the line once, in every state, and reports draining or not ready. -/
def Obligations.TxbusyReportsDrainingOrLineNotReady : Prop :=
  ∀ (s : State) (c : Chan), ∃ (r : Bool) (l : Line),
    exec (.txbusy c) s = .next ((s.setLine c l).ret .ok (if (s.tx c).state = .draining ∨ r = false then 1 else 0) 0) ∧
    l.txReady.taken = (s.line c).txReady.taken + 1 ∧ l.rxReady = (s.line c).rxReady ∧ l.read = (s.line c).read ∧
    ∀ x xs, (s.line c).txReady.queue = x :: xs → r = x ∧ l.txReady.queue = xs

/-- R203, R84, R94: a POLL of a DRAINING channel whose line is ready emits the byte the in-flight address holds before this
POLL's own store, then moves one byte on, to the next non-empty fragment, or to IDLE. -/
def Obligations.PollSendsTheNextByte : Prop :=
  ∀ (s : State) (c : Chan) (sec ns : Word),
    ns.toNat < nsPerS → (s.tx c).good → (s.tx c).state = .draining → (hwTxReady s c).1 = true →
    memOk s.params ⟨.read, (s.tx c).curAddr⟩ = true →
    ((s.rx c).state = .armed → memOk s.params ⟨.write, (s.rx c).buf + (s.rx c).idx⟩ = true) →
      ∃ t, exec (.poll c sec ns) s = .next t ∧ t.resp = some ⟨.ok, 0, 0, 0⟩ ∧
        t.log c = s.log c ++ [memRead s.mem (s.tx c).curAddr.toNat] ∧
        pendingAddrs (s.tx c) = (s.tx c).curAddr :: pendingAddrs (t.tx c) ∧
        ((s.tx c).curRem ≠ 1 →
          t.tx c = { s.tx c with curAddr := (s.tx c).curAddr + 1, curRem := (s.tx c).curRem - 1 }) ∧
        (∀ k, (s.tx c).curRem = 1 → firstNonempty (s.tx c) ((s.tx c).fidx.toNat + 1) = some k →
          t.tx c = { s.tx c with
            fidx := BitVec.ofNat 5 k.val, curAddr := (s.tx c).ft[k.val].addr, curRem := (s.tx c).ft[k.val].len }) ∧
        ((s.tx c).curRem = 1 → firstNonempty (s.tx c) ((s.tx c).fidx.toNat + 1) = none →
          t.tx c = { s.tx c with curAddr := (s.tx c).curAddr + 1, curRem := 0, state := .idle })

/-- R203: an IDLE side makes no line access and sends nothing; a line that is not ready means no progress. -/
def Obligations.PollSendsNothingWhenIdleOrNotReady : Prop :=
  ∀ (s : State) (c : Chan) (sec ns : Word),
    ns.toNat < nsPerS → ((s.tx c).state = .idle ∨ (hwTxReady s c).1 = false) →
    ((s.rx c).state = .armed → memOk s.params ⟨.write, (s.rx c).buf + (s.rx c).idx⟩ = true) →
      ∃ t, exec (.poll c sec ns) s = .next t ∧ t.resp = some ⟨.ok, 0, 0, 0⟩ ∧ t.log c = s.log c ∧ t.tx c = s.tx c ∧
        (lineUses t c).1 = (if (s.tx c).state = .idle then (lineUses s c).1 else (lineUses s c).1 + 1)

/-- R206, R207: over POLLs of a channel whose HwTxReady answers are `answers`, no more of them ready than bytes are owed, the
bytes sent are the first of the bytes owed, one per ready answer, as memory holds them; the channel is IDLE exactly when all
have gone. (The owed bytes are at admitted addresses; the receive slot is UNARMED, so that no POLL writes memory.) -/
def Obligations.MessageIsSentWholeAndInOrder : Prop :=
  ∀ (s : State) (c : Chan) (times : List Timestamp) (answers rest : List Bool),
    (s.tx c).good → (s.rx c).state = .unarmed → (∀ u ∈ times, tsValid u) → times.length = answers.length →
    (s.line c).txReady.queue = answers ++ rest → answers.count true ≤ (pendingAddrs (s.tx c)).length →
    (∀ a ∈ pendingAddrs (s.tx c), memOk s.params ⟨.read, a⟩ = true) →
      ∃ t, execAll (times.map (fun u => .poll c u.sec u.ns)) s = .next t ∧
        t.log c = s.log c ++
          ((pendingAddrs (s.tx c)).take (answers.count true)).map (fun a => memRead s.mem a.toNat) ∧
        pendingAddrs (t.tx c) = (pendingAddrs (s.tx c)).drop (answers.count true) ∧
        ((t.tx c).state = .idle ↔ answers.count true = (pendingAddrs (s.tx c)).length) ∧
        t.mem = s.mem

/-! ## Receive side and the idle-timeout detector -/

/-- R250, R332: RECV refused: the slot is armed, or the capacity is 0 or above 65528. -/
def Obligations.RecvRejectionsChangeNothing : Prop :=
  ∀ (s : State) (c : Chan) (buf cap : Word),
    ((s.rx c).state = .armed ∨ cap.toNat = 0 ∨ 65528 < cap.toNat) →
      exec (.recv c buf cap) s = .next (s.ret .rejected 0 0)

/-- R250: RECV of an UNARMED slot with a legal capacity and no TICK between its micro-steps: the slot is armed empty, its
last-activity time the high-resolution time, and OK is returned. -/
def Obligations.RecvArmsTheSlot : Prop :=
  ∀ (s : State) (c : Chan) (buf cap : Word),
    s.params.wf = true → s.clk.nsec.toNat < nsPerS → s.clk.gen.toNat % 2 = 0 → (s.rx c).state = .unarmed → capGood cap →
      ∃ t, exec (.recv c buf cap) s = .next t ∧ t.micro = some (.reading (.recv c buf cap) (.sec s.clk.gen)) ∧
        (s.params.hrPresent = true → ∃ (sub : Nat) (d : Timestamp) (q : Draws Word), sub < s.params.tickNs ∧ tsValid d ∧
          tsValue d = (tsValue s.clk.time + sub) % wrapPeriod ∧ q.taken = s.subTicks.taken + 1 ∧
          microSteps 5 t =
            State.ret (State.setRx { s with subTicks := q } c ⟨.armed, buf, cap, 0, d, .none, 0⟩) .ok 0 0) ∧
        (s.params.hrPresent = false →
          microSteps 4 t = State.ret (s.setRx c ⟨.armed, buf, cap, 0, s.clk.time, .none, 0⟩) .ok 0 0)

/-- R251, R252, R85, R89: a POLL of an ARMED channel whose line has a byte without error stores it at BUF + IDX and nowhere
else, and ends the reception exactly when the buffer is full or the timeout is {0, 0}. -/
def Obligations.PollStoresTheByte : Prop :=
  ∀ (s : State) (c : Chan) (sec ns : Word) (b : Byte),
    ns.toNat < nsPerS → memWf s.mem = true → (s.rx c).good → (s.rx c).state = .armed →
    (hwRxReady s c).1 = true → (hwRead (hwRxReady s c).2 c).1 = (b, false) →
    memOk s.params ⟨.write, (s.rx c).buf + (s.rx c).idx⟩ = true →
    ((s.tx c).state = .draining → memOk s.params ⟨.read, (s.tx c).curAddr⟩ = true) →
      ∃ t, exec (.poll c sec ns) s = .next t ∧ t.resp = some ⟨.ok, 0, 0, 0⟩ ∧
        memRead t.mem ((s.rx c).buf + (s.rx c).idx).toNat = b ∧
        (∀ x, x ≠ ((s.rx c).buf + (s.rx c).idx).toNat → memRead t.mem x = memRead s.mem x) ∧
        t.rx c =
          (if (s.rx c).idx + 1 = (s.rx c).cap then
            { s.rx c with idx := (s.rx c).cap, last := ⟨sec, ns⟩, state := .unarmed, kind := .data, len := (s.rx c).cap }
          else if s.timeout c = ⟨0, 0⟩ then
            { s.rx c with
              idx := (s.rx c).idx + 1, last := ⟨sec, ns⟩, state := .unarmed, kind := .data, len := (s.rx c).idx + 1 }
          else { s.rx c with idx := (s.rx c).idx + 1, last := ⟨sec, ns⟩ })

/-- R251, R252, R254, R336: a POLL that stores no byte, because the line had none, or it came with an error, or the slot is
UNARMED, leaves memory alone; an UNARMED slot keeps its fields, and an ARMED one completes exactly when a byte is stored and
the silence, in nanoseconds modulo the wrap period, has reached the timeout. -/
def Obligations.SilenceEndsTheReception : Prop :=
  ∀ (s : State) (c : Chan) (sec ns : Word),
    ns.toNat < nsPerS → s.params.wf = true → (s.rx c).good →
    ((s.rx c).state = .unarmed ∨ (hwRxReady s c).1 = false ∨ (hwRead (hwRxReady s c).2 c).1.2 = true) →
    ((s.tx c).state = .draining → memOk s.params ⟨.read, (s.tx c).curAddr⟩ = true) →
      ∃ t, exec (.poll c sec ns) s = .next t ∧ t.resp = some ⟨.ok, 0, 0, 0⟩ ∧ t.mem = s.mem ∧
        t.rx c =
          (if (s.rx c).state = .armed ∧ 1 ≤ (s.rx c).idx.toNat ∧
              tsValue (s.timeout c) ≤ (tsValue ⟨sec, ns⟩ + wrapPeriod - tsValue (s.rx c).last) % wrapPeriod then
            { s.rx c with state := .unarmed, kind := .data, len := (s.rx c).idx }
          else s.rx c)

/-- R254, R255: RXABORT completes an armed slot with what it has captured, and does nothing to an unarmed one. -/
def Obligations.RxabortCompletesTheSlot : Prop :=
  ∀ (s : State) (c : Chan),
    ((s.rx c).state = .armed → exec (.rxabort c) s =
      .next ((s.setRx c { s.rx c with state := .unarmed, kind := .data, len := (s.rx c).idx }).ret .ok 0 0)) ∧
    ((s.rx c).state = .unarmed → exec (.rxabort c) s = .next (s.ret .ok 0 0))

/-- R256: RXBUSY is true exactly when the slot is ARMED. -/
def Obligations.RxbusyReportsArmed : Prop :=
  ∀ (s : State) (c : Chan),
    exec (.rxbusy c) s = .next (s.ret .ok (if (s.rx c).state = .armed then 1 else 0) 0)

/-- R257, R47: the kind as its number, 0 NONE, 1 DATA, 2 LINE_BREAK. -/
def Obligations.RxstatReturnsTheDescriptor : Prop :=
  ∀ (s : State) (c : Chan),
    ((s.rx c).kind = .none → exec (.rxstat c) s = .next (s.ret .ok 0 (s.rx c).len)) ∧
    ((s.rx c).kind = .data → exec (.rxstat c) s = .next (s.ret .ok 1 (s.rx c).len)) ∧
    ((s.rx c).kind = .lineBreak → exec (.rxstat c) s = .next (s.ret .ok 2 (s.rx c).len))

/-- R258, R259 (vector W6): a slot of capacity n fed n bytes by n POLLs, at any times, completes with (DATA, n) in the last
of them, holding exactly those bytes in order and having written nothing else. (The timeout is not {0, 0}; the transmit side
is IDLE.) -/
def Obligations.FullBufferEndsTheFrame : Prop :=
  ∀ (s : State) (c : Chan) (times : List Timestamp) (bytes : List Byte) (readies : List Bool) (reads : List (Byte × Bool)),
    (∀ u ∈ times, tsValid u) → times.length = bytes.length → (s.tx c).state = .idle → memWf s.mem = true →
    (s.rx c).state = .armed → (s.rx c).idx = 0 → (s.rx c).cap.toNat = bytes.length → capGood (s.rx c).cap →
    s.timeout c ≠ ⟨0, 0⟩ →
    (s.line c).rxReady.queue = List.replicate bytes.length true ++ readies →
    (s.line c).read.queue = bytes.map (fun b => (b, false)) ++ reads →
    (∀ k < bytes.length, memOk s.params ⟨.write, (s.rx c).buf + BitVec.ofNat 32 k⟩ = true) →
      ∃ t, execAll (times.map (fun u => .poll c u.sec u.ns)) s = .next t ∧
        (t.rx c).state = .unarmed ∧ (t.rx c).kind = .data ∧ (t.rx c).len = (s.rx c).cap ∧
        (∀ (k : Nat) (h : k < bytes.length), memRead t.mem ((s.rx c).buf + BitVec.ofNat 32 k).toNat = bytes[k]) ∧
        (∀ x, (∀ k < bytes.length, x ≠ ((s.rx c).buf + BitVec.ofNat 32 k).toNat) → memRead t.mem x = memRead s.mem x)

/-- R258, R261 (vector W7): a slot fed n bytes, fewer than its capacity, then polled once without a byte at a time whose
distance from the last byte's POLL has reached the timeout, completes with (DATA, n) and those bytes, having written nothing
else. (The timeout is not {0, 0}; the transmit side is IDLE.) -/
def Obligations.SilenceEndsAShortFrame : Prop :=
  ∀ (s : State) (c : Chan) (times : List Timestamp) (t0 t1 : Timestamp) (bytes : List Byte) (readies : List Bool)
    (reads : List (Byte × Bool)),
    s.params.wf = true → (∀ u ∈ times, tsValid u) → tsValid t0 → tsValid t1 → times.length + 1 = bytes.length →
    (s.tx c).state = .idle → memWf s.mem = true →
    (s.rx c).state = .armed → (s.rx c).idx = 0 → bytes.length < (s.rx c).cap.toNat → capGood (s.rx c).cap →
    s.timeout c ≠ ⟨0, 0⟩ →
    (s.line c).rxReady.queue = List.replicate bytes.length true ++ false :: readies →
    (s.line c).read.queue = bytes.map (fun b => (b, false)) ++ reads →
    (∀ k < bytes.length, memOk s.params ⟨.write, (s.rx c).buf + BitVec.ofNat 32 k⟩ = true) →
    tsValue (s.timeout c) ≤ (tsValue t1 + wrapPeriod - tsValue t0) % wrapPeriod →
      ∃ t, execAll ((times ++ [t0, t1]).map (fun u => .poll c u.sec u.ns)) s = .next t ∧
        (t.rx c).state = .unarmed ∧ (t.rx c).kind = .data ∧ (t.rx c).len.toNat = bytes.length ∧
        (∀ (k : Nat) (h : k < bytes.length), memRead t.mem ((s.rx c).buf + BitVec.ofNat 32 k).toNat = bytes[k]) ∧
        (∀ x, (∀ k < bytes.length, x ≠ ((s.rx c).buf + BitVec.ofNat 32 k).toNat) → memRead t.mem x = memRead s.mem x)

/-- R47, R254: no step of any agent makes a descriptor LINE_BREAK. -/
def Obligations.LineBreakIsNeverProduced : Prop :=
  ∀ s t : State, step s = .next t → (∀ c, (s.rx c).kind ≠ .lineBreak) → ∀ c, (t.rx c).kind ≠ .lineBreak

/-! ## POLL -/

/-- R300, R115: a POLL with a valid time and admitted accesses returns OK and touches its own channel only; with an invalid
time it is ILLEGAL and changes nothing. -/
def Obligations.PollCompletes : Prop :=
  ∀ (s : State) (c : Chan) (sec ns : Word),
    (ns.toNat < nsPerS → ((s.tx c).state = .draining → memOk s.params ⟨.read, (s.tx c).curAddr⟩ = true) →
      ((s.rx c).state = .armed → memOk s.params ⟨.write, (s.rx c).buf + (s.rx c).idx⟩ = true) →
        ∃ t, exec (.poll c sec ns) s = .next t ∧ t.resp = some ⟨.ok, 0, 0, 0⟩ ∧ t.micro = none ∧
          (∀ d, d ≠ c → t.chan d = s.chan d ∧ t.log d = s.log d ∧ t.line d = s.line d) ∧
          t = { s with ch := t.ch, txLog := t.txLog, lines := t.lines, mem := t.mem, micro := none, resp := t.resp }) ∧
    (nsPerS ≤ ns.toNat → exec (.poll c sec ns) s = .next (s.ret .illegal 0 0))

/-- R81, R203, R251: a POLL stuck on its fragment byte has asked the line and done nothing else; one stuck on its store keeps
the transmit half's effects and its reads of the line, and leaves the slot and memory as they were. -/
def Obligations.PollIsStuckOnARefusedAccess : Prop :=
  ∀ (s : State) (c : Chan) (sec ns : Word), ns.toNat < nsPerS →
    ((s.tx c).state = .draining → (hwTxReady s c).1 = true → memOk s.params ⟨.read, (s.tx c).curAddr⟩ = false →
      ∃ t, exec (.poll c sec ns) s = .next t ∧ t.stuck = some ⟨.read, (s.tx c).curAddr⟩ ∧ t.resp = none ∧
        t.ch = s.ch ∧ t.txLog = s.txLog ∧ t.mem = s.mem ∧
        lineUses t c = ((lineUses s c).1 + 1, (lineUses s c).2.1, (lineUses s c).2.2)) ∧
    ((s.rx c).state = .armed → (hwRxReady s c).1 = true → (hwRead (hwRxReady s c).2 c).1.2 = false →
      ((s.tx c).state = .draining → memOk s.params ⟨.read, (s.tx c).curAddr⟩ = true) →
      memOk s.params ⟨.write, (s.rx c).buf + (s.rx c).idx⟩ = false →
      ∃ t, exec (.poll c sec ns) s = .next t ∧ t.stuck = some ⟨.write, (s.rx c).buf + (s.rx c).idx⟩ ∧ t.resp = none ∧
        t.rx c = s.rx c ∧ t.mem = s.mem ∧
        ((s.tx c).state = .draining → (hwTxReady s c).1 = true →
          t.tx c = advanceTx (s.tx c) ∧ t.log c = s.log c ++ [memRead s.mem (s.tx c).curAddr.toNat]))

/-- R302, R207, R303: one POLL asks each line flag at most once, reads at most one byte of the line and only after a ready
answer, sends at most one byte, and writes at most one byte of memory. -/
def Obligations.PollDoesBoundedWork : Prop :=
  ∀ (s t : State) (c : Chan) (sec ns : Word), memWf s.mem = true → exec (.poll c sec ns) s = .next t →
    (lineUses t c).1 ≤ (lineUses s c).1 + 1 ∧
    (lineUses t c).2.1 ≤ (lineUses s c).2.1 + 1 ∧
    (lineUses t c).2.2 ≤ (lineUses s c).2.2 + 1 ∧
    ((hwRxReady s c).1 = false → (lineUses t c).2.2 = (lineUses s c).2.2) ∧
    (t.log c = s.log c ∨ t.log c = s.log c ++ [memRead s.mem (s.tx c).curAddr.toNat]) ∧
    ∀ x, x ≠ ((s.rx c).buf + (s.rx c).idx).toNat → memRead t.mem x = memRead s.mem x

/-- R301: what a POLL of channel c does to its channel, its log, its line and memory depends on nothing else of the state,
whatever the other channels and the clock hold. -/
def Obligations.PollDependsOnItsChannelOnly : Prop :=
  ∀ (s1 s2 : State) (c : Chan) (sec ns : Word),
    s1.params = s2.params → s1.chan c = s2.chan c → s1.log c = s2.log c → s1.line c = s2.line c → s1.mem = s2.mem →
      ∃ t1 t2, exec (.poll c sec ns) s1 = .next t1 ∧ exec (.poll c sec ns) s2 = .next t2 ∧
        t1.chan c = t2.chan c ∧ t1.log c = t2.log c ∧ t1.line c = t2.line c ∧ t1.mem = t2.mem ∧ t1.resp = t2.resp

/-- R260: while no byte is stored, the last-activity time RECV left is never read: replacing it changes nothing a POLL does,
and it is gone once a byte is stored. -/
def Obligations.TheArmingTimeIsNeverRead : Prop :=
  ∀ (s : State) (c : Chan) (sec ns : Word) (u : Timestamp), (s.rx c).idx = 0 →
    ∃ t1 t2, exec (.poll c sec ns) s = .next t1 ∧
      exec (.poll c sec ns) (s.setRx c { s.rx c with last := u }) = .next t2 ∧
      t1.tx c = t2.tx c ∧ t1.log c = t2.log c ∧ t1.line c = t2.line c ∧ t1.mem = t2.mem ∧ t1.resp = t2.resp ∧
      t2.rx c = { t1.rx c with last := (t2.rx c).last } ∧ ((t1.rx c).idx ≠ 0 → t1.rx c = t2.rx c)

/-! ## Reset, invariant and frames -/

/-- R54, R370: every piece of state after reset, for every choice of parameters, with no command in progress. -/
def Obligations.ResetState : Prop :=
  (∀ p : Params,
    (State.resetWith p).params = p ∧ (State.resetWith p).clk = ⟨0, 0, 0⟩ ∧ (State.resetWith p).free ∧
    ∀ c : Chan, (State.resetWith p).log c = [] ∧
      (State.resetWith p).rx c = ⟨.unarmed, 0, 0, 0, ⟨0, 0⟩, .none, 0⟩ ∧
      ((State.resetWith p).tx c).state = .idle ∧ ((State.resetWith p).tx c).fcount = 0 ∧
      ((State.resetWith p).tx c).fidx = 0 ∧ ((State.resetWith p).tx c).curAddr = 0 ∧
      ((State.resetWith p).tx c).curRem = 0 ∧ ∀ j : Fin 32, ((State.resetWith p).tx c).ft[j.val] = ⟨0, 0⟩) ∧
  State.reset = State.resetWith Params.source

/-- The invariant of Safety.lean (R11, R36, R42, R48, R49, R110, R153) holds after reset, for all legal parameters. -/
def Obligations.InvariantHoldsAtReset : Prop :=
  (∀ p : Params, p.wf = true → (State.resetWith p).Inv) ∧ State.reset.Inv

/-- Every step of every agent keeps the invariant of Safety.lean (R11, R36, R42, R48, R49, R110, R153). -/
def Obligations.StepKeepsTheInvariant : Prop :=
  ∀ s t : State, s.Inv → step s = .next t → t.Inv

/-- R330: a command the host presents always answers: it has returned, it is in its micro-steps (NOW, HRNOW and RECV only),
or it is stuck on an access the platform does not admit. -/
def Obligations.EveryCommandReturnsGoesOnOrIsStuck : Prop :=
  ∀ (i : Instr) (s : State), s.free →
    ∃ t, exec i s = .next t ∧
      ((t.micro = none ∧ t.stuck = none ∧ ∃ r, t.resp = some r ∧ r.good) ∨
       (t.stuck = none ∧ t.resp = none ∧ t.micro ≠ none ∧
        (i = .now ∨ i = .hrnow ∨ ∃ c buf cap, i = .recv c buf cap)) ∨
       (t.micro = none ∧ t.resp = none ∧ ∃ a, t.stuck = some a ∧ memOk s.params a = false))

/-- R334: a command that returns REJECTED or ILLEGAL changes nothing but the response, whose result words are 0. -/
def Obligations.RejectedOrIllegalChangesNothing : Prop :=
  ∀ (i : Instr) (s t : State) (r : Response),
    s.free → exec i s = .next t → t.resp = some r → r.st ≠ .ok → t = { s with resp := some ⟨r.st, 0, 0, 0⟩ }

/-- R332, R333: the only causes of REJECTED, and of ILLEGAL once a command is decoded. -/
def Obligations.CausesOfRejectedAndIllegal : Prop :=
  ∀ (i : Instr) (s t : State) (r : Response), exec i s = .next t → t.resp = some r →
    (r.st = .rejected →
      (∃ c desc count, i = .send c desc count ∧ count ≠ 0 ∧
        ((s.tx c).state = .draining ∨ 32 < count.toNat ∨
          ∃ fs, loadFrags s desc count.toNat = .ok fs ∧ 65528 < totalLen fs)) ∨
      (∃ c buf cap, i = .recv c buf cap ∧ ((s.rx c).state = .armed ∨ cap.toNat = 0 ∨ 65528 < cap.toNat))) ∧
    (r.st = .illegal →
      (∃ a b c d, (i = .delta a b c d ∨ i = .cmp a b c d) ∧ (1000000000 ≤ b.toNat ∨ 1000000000 ≤ d.toNat)) ∨
      (∃ c a b, i = .poll c a b ∧ 1000000000 ≤ b.toNat) ∨
      (∃ sel, i = .clkrd sel ∧ 3 ≤ sel.toNat))

/-- R55, R92, R301, the frame of every instruction: the clock commands write no state; a channel command leaves the clock,
every other channel, its log and its line alone; the transmit commands leave the receive side, TXLOG and memory, and
the receive commands the transmit side, TXLOG, memory and the lines, alone; only POLL writes memory. -/
def Obligations.AccessMatrixFrames : Prop :=
  ∀ (i : Instr) (s t : State), exec i s = .next t →
    (i.chan = none → t = { s with micro := t.micro, resp := t.resp }) ∧
    (∀ c, i.chan = some c →
      (∀ d, d ≠ c → t.chan d = s.chan d ∧ t.log d = s.log d ∧ t.line d = s.line d) ∧
      t.params = s.params ∧ t.clk = s.clk ∧ t.turns = s.turns ∧ t.host = s.host ∧ t.subTicks = s.subTicks) ∧
    (∀ c a b, i = .send c a b ∨ i = .txabort c → t.rx c = s.rx c ∧ t.txLog = s.txLog ∧ t.mem = s.mem ∧ t.lines = s.lines) ∧
    (∀ c, i = .txbusy c → t.ch = s.ch ∧ t.txLog = s.txLog ∧ t.mem = s.mem) ∧
    (∀ c a b, i = .recv c a b ∨ i = .rxbusy c ∨ i = .rxstat c → t = { s with micro := t.micro, resp := t.resp }) ∧
    (∀ c, i = .rxabort c → t.tx c = s.tx c ∧ t.txLog = s.txLog ∧ t.mem = s.mem ∧ t.lines = s.lines)

/-- R55, R156, R159, R250: the frame of a micro-step: the loops of NOW and HRNOW write nothing but their own progress and the
sub-period draw; RECV's last step writes its own receive slot. -/
def Obligations.MicroStepFrame : Prop :=
  ∀ (s : State) (m : Micro),
    (∀ r p, m = .reading r p → microStep s m =
      { s with micro := (microStep s m).micro, resp := (microStep s m).resp, subTicks := (microStep s m).subTicks }) ∧
    (∀ c buf cap u, m = .arming c buf cap u →
      microStep s m = (s.setRx c ⟨.armed, buf, cap, 0, u, .none, 0⟩).ret .ok 0 0)
end

