-- ==== Sys2Proof/Laws/Memory.lean ====
section
/-! SUPPORT. The laws of memory: a read after a write, and that a write keeps the canonical form. -/

namespace Sys2Proof.Machine

open Sys2Proof

/-- In a canonical memory whose first cell lies above `a`, address `a` is unlisted. -/
theorem memRead_of_above {m : List Host.Cell} (hwf : memWf m = true) {a : Nat} (h : memAbove a m = true) :
    memRead m a = memUnlisted := by
  induction m with
  | nil => rfl
  | cons x m ih =>
    obtain ⟨k, b⟩ := x
    simp only [memWf, Bool.and_eq_true, decide_eq_true_eq] at hwf
    simp only [memAbove, decide_eq_true_eq] at h
    have hm : memAbove a m = true := by
      cases m with
      | nil => rfl
      | cons y m =>
        have := hwf.1.2
        simp only [memAbove, decide_eq_true_eq] at this ⊢
        omega
    simp only [memRead, show ¬ k = a from by omega, if_false]
    exact ih hwf.2 hm

/-- A write is read back, and leaves every other address alone. -/
theorem memRead_memWrite {m : List Host.Cell} (hwf : memWf m = true) (a : Nat) (v : Byte) (x : Nat) :
    memRead (memWrite m a v) x = if x = a then v else memRead m x := by
  induction m with
  | nil =>
    simp only [memWrite]
    split
    · rename_i hv
      by_cases h : x = a <;> simp [memRead, h, hv]
    · by_cases h : x = a
      · simp [memRead, h]
      · simp [memRead, h, Ne.symm h]
  | cons y m ih =>
    obtain ⟨k, b⟩ := y
    have hwf' := hwf
    simp only [memWf, Bool.and_eq_true, decide_eq_true_eq] at hwf'
    simp only [memWrite]
    by_cases h1 : a < k
    · have hun : memRead ((k, b) :: m) a = memUnlisted :=
        memRead_of_above hwf (by simpa [memAbove] using h1)
      simp only [h1, if_true]
      split
      · rename_i hv
        by_cases h : x = a
        · subst h; simp [hun, hv]
        · simp [h]
      · by_cases h : x = a
        · simp [memRead, h]
        · simp [memRead, h, Ne.symm h]
    · simp only [h1, if_false]
      by_cases h2 : a = k
      · subst h2
        simp only [if_true]
        split
        · rename_i hv
          by_cases h : x = a
          · subst h
            simp [memRead_of_above hwf'.2 hwf'.1.2, hv]
          · simp [memRead, h, Ne.symm h]
        · by_cases h : x = a
          · simp [memRead, h]
          · simp [memRead, h, Ne.symm h]
      · simp only [h2, if_false, memRead, ih hwf'.2]
        by_cases h3 : k = x
        · have : ¬ x = a := by omega
          simp [h3, this]
        · simp [h3]

/-- Whatever lies below every cell and the written address lies below every cell after the write. -/
theorem memAbove_memWrite {m : List Host.Cell} {l a : Nat} (hwf : memWf m = true) (h : memAbove l m = true) (hl : l < a)
    (v : Byte) : memAbove l (memWrite m a v) = true := by
  cases m with
  | nil =>
    simp only [memWrite]
    split <;> simp [memAbove, hl]
  | cons y m =>
    obtain ⟨k, b⟩ := y
    simp only [memWf, Bool.and_eq_true, decide_eq_true_eq] at hwf
    simp only [memAbove, decide_eq_true_eq] at h
    simp only [memWrite]
    by_cases h1 : a < k
    · simp only [h1, if_true]
      split <;> simp [memAbove, h, hl]
    · simp only [h1, if_false]
      by_cases h2 : a = k
      · simp only [h2, if_true]
        split
        · cases m with
          | nil => rfl
          | cons z m =>
            have := hwf.1.2
            simp only [memAbove, decide_eq_true_eq] at this ⊢
            omega
        · simp [memAbove, h]
      · simp [h2, memAbove, h]

/-- A write below 2^32 keeps the canonical form. -/
theorem memWrite_wf {m : List Host.Cell} (hwf : memWf m = true) {a : Nat} (ha : a < 2 ^ 32) (v : Byte) :
    memWf (memWrite m a v) = true := by
  induction m with
  | nil =>
    simp only [memWrite]
    split
    · rfl
    · rename_i hv
      simp only [memWf, memAbove, Bool.and_eq_true, decide_eq_true_eq]
      exact ⟨⟨⟨ha, hv⟩, trivial⟩, trivial⟩
  | cons y m ih =>
    obtain ⟨k, b⟩ := y
    have hwf' := hwf
    simp only [memWf, Bool.and_eq_true, decide_eq_true_eq] at hwf'
    simp only [memWrite]
    by_cases h1 : a < k
    · simp only [h1, if_true]
      split
      · exact hwf
      · rename_i hv
        rw [memWf]
        simp only [hwf, memAbove, Bool.and_eq_true, decide_eq_true_eq]
        exact ⟨⟨⟨ha, hv⟩, h1⟩, trivial⟩
    · simp only [h1, if_false]
      by_cases h2 : a = k
      · simp only [h2, if_true]
        split
        · exact hwf'.2
        · rename_i hv
          simp only [memWf, Bool.and_eq_true, decide_eq_true_eq]
          exact ⟨⟨⟨hwf'.1.1.1, hv⟩, hwf'.1.2⟩, hwf'.2⟩
      · simp only [h2, if_false, memWf, Bool.and_eq_true, decide_eq_true_eq]
        exact ⟨⟨hwf'.1.1, memAbove_memWrite hwf'.2 hwf'.1.2 (by omega) v⟩, ih hwf'.2⟩

/-- A byte store keeps the canonical form. -/
theorem storeByte_wf {s : State} (hwf : memWf s.mem = true) (a : Word) (b : Byte) : memWf (storeByte s a b).mem = true :=
  memWrite_wf hwf a.isLt b

/-- The reset memory is canonical. -/
theorem reset_mem_wf : memWf State.reset.mem = true := rfl

end Sys2Proof.Machine
end

