-- ==== Sys2Proof/Laws/State.lean ====
section
/-! SUPPORT. The small lemmas of State: one per field per update, true by rfl, and what the channel views read after a
channel update. Later proofs cite these and unfold no record update. -/

namespace Sys2Proof.Machine

open Sys2Proof

/-! setTx -/

@[simp] theorem setTx_params (s : State) (c : Chan) (t : TxSide) : (s.setTx c t).params = s.params := rfl
@[simp] theorem setTx_clk (s : State) (c : Chan) (t : TxSide) : (s.setTx c t).clk = s.clk := rfl
@[simp] theorem setTx_txLog (s : State) (c : Chan) (t : TxSide) : (s.setTx c t).txLog = s.txLog := rfl
@[simp] theorem setTx_micro (s : State) (c : Chan) (t : TxSide) : (s.setTx c t).micro = s.micro := rfl
@[simp] theorem setTx_stuck (s : State) (c : Chan) (t : TxSide) : (s.setTx c t).stuck = s.stuck := rfl
@[simp] theorem setTx_resp (s : State) (c : Chan) (t : TxSide) : (s.setTx c t).resp = s.resp := rfl
@[simp] theorem setTx_mem (s : State) (c : Chan) (t : TxSide) : (s.setTx c t).mem = s.mem := rfl
@[simp] theorem setTx_turns (s : State) (c : Chan) (t : TxSide) : (s.setTx c t).turns = s.turns := rfl
@[simp] theorem setTx_host (s : State) (c : Chan) (t : TxSide) : (s.setTx c t).host = s.host := rfl
@[simp] theorem setTx_subTicks (s : State) (c : Chan) (t : TxSide) : (s.setTx c t).subTicks = s.subTicks := rfl
@[simp] theorem setTx_lines (s : State) (c : Chan) (t : TxSide) : (s.setTx c t).lines = s.lines := rfl
@[simp] theorem setTx_log (s : State) (c : Chan) (t : TxSide) (d : Chan) : (s.setTx c t).log d = s.log d := rfl
@[simp] theorem setTx_line (s : State) (c : Chan) (t : TxSide) (d : Chan) : (s.setTx c t).line d = s.line d := rfl
@[simp] theorem setTx_timeout (s : State) (c : Chan) (t : TxSide) (d : Chan) : (s.setTx c t).timeout d = s.timeout d := rfl

/-! setRx -/

@[simp] theorem setRx_params (s : State) (c : Chan) (r : RxSide) : (s.setRx c r).params = s.params := rfl
@[simp] theorem setRx_clk (s : State) (c : Chan) (r : RxSide) : (s.setRx c r).clk = s.clk := rfl
@[simp] theorem setRx_txLog (s : State) (c : Chan) (r : RxSide) : (s.setRx c r).txLog = s.txLog := rfl
@[simp] theorem setRx_micro (s : State) (c : Chan) (r : RxSide) : (s.setRx c r).micro = s.micro := rfl
@[simp] theorem setRx_stuck (s : State) (c : Chan) (r : RxSide) : (s.setRx c r).stuck = s.stuck := rfl
@[simp] theorem setRx_resp (s : State) (c : Chan) (r : RxSide) : (s.setRx c r).resp = s.resp := rfl
@[simp] theorem setRx_mem (s : State) (c : Chan) (r : RxSide) : (s.setRx c r).mem = s.mem := rfl
@[simp] theorem setRx_turns (s : State) (c : Chan) (r : RxSide) : (s.setRx c r).turns = s.turns := rfl
@[simp] theorem setRx_host (s : State) (c : Chan) (r : RxSide) : (s.setRx c r).host = s.host := rfl
@[simp] theorem setRx_subTicks (s : State) (c : Chan) (r : RxSide) : (s.setRx c r).subTicks = s.subTicks := rfl
@[simp] theorem setRx_lines (s : State) (c : Chan) (r : RxSide) : (s.setRx c r).lines = s.lines := rfl
@[simp] theorem setRx_log (s : State) (c : Chan) (r : RxSide) (d : Chan) : (s.setRx c r).log d = s.log d := rfl
@[simp] theorem setRx_line (s : State) (c : Chan) (r : RxSide) (d : Chan) : (s.setRx c r).line d = s.line d := rfl
@[simp] theorem setRx_timeout (s : State) (c : Chan) (r : RxSide) (d : Chan) : (s.setRx c r).timeout d = s.timeout d := rfl

/-! setLine -/

@[simp] theorem setLine_params (s : State) (c : Chan) (l : Line) : (s.setLine c l).params = s.params := rfl
@[simp] theorem setLine_clk (s : State) (c : Chan) (l : Line) : (s.setLine c l).clk = s.clk := rfl
@[simp] theorem setLine_ch (s : State) (c : Chan) (l : Line) : (s.setLine c l).ch = s.ch := rfl
@[simp] theorem setLine_txLog (s : State) (c : Chan) (l : Line) : (s.setLine c l).txLog = s.txLog := rfl
@[simp] theorem setLine_micro (s : State) (c : Chan) (l : Line) : (s.setLine c l).micro = s.micro := rfl
@[simp] theorem setLine_stuck (s : State) (c : Chan) (l : Line) : (s.setLine c l).stuck = s.stuck := rfl
@[simp] theorem setLine_resp (s : State) (c : Chan) (l : Line) : (s.setLine c l).resp = s.resp := rfl
@[simp] theorem setLine_mem (s : State) (c : Chan) (l : Line) : (s.setLine c l).mem = s.mem := rfl
@[simp] theorem setLine_turns (s : State) (c : Chan) (l : Line) : (s.setLine c l).turns = s.turns := rfl
@[simp] theorem setLine_host (s : State) (c : Chan) (l : Line) : (s.setLine c l).host = s.host := rfl
@[simp] theorem setLine_subTicks (s : State) (c : Chan) (l : Line) : (s.setLine c l).subTicks = s.subTicks := rfl
@[simp] theorem setLine_chan (s : State) (c : Chan) (l : Line) (d : Chan) : (s.setLine c l).chan d = s.chan d := rfl
@[simp] theorem setLine_tx (s : State) (c : Chan) (l : Line) (d : Chan) : (s.setLine c l).tx d = s.tx d := rfl
@[simp] theorem setLine_rx (s : State) (c : Chan) (l : Line) (d : Chan) : (s.setLine c l).rx d = s.rx d := rfl
@[simp] theorem setLine_log (s : State) (c : Chan) (l : Line) (d : Chan) : (s.setLine c l).log d = s.log d := rfl
@[simp] theorem setLine_timeout (s : State) (c : Chan) (l : Line) (d : Chan) : (s.setLine c l).timeout d = s.timeout d := rfl

/-! hwTxReady -/

@[simp] theorem hwTxReady_params (s : State) (c : Chan) : (hwTxReady s c).2.params = s.params := rfl
@[simp] theorem hwTxReady_clk (s : State) (c : Chan) : (hwTxReady s c).2.clk = s.clk := rfl
@[simp] theorem hwTxReady_ch (s : State) (c : Chan) : (hwTxReady s c).2.ch = s.ch := rfl
@[simp] theorem hwTxReady_txLog (s : State) (c : Chan) : (hwTxReady s c).2.txLog = s.txLog := rfl
@[simp] theorem hwTxReady_micro (s : State) (c : Chan) : (hwTxReady s c).2.micro = s.micro := rfl
@[simp] theorem hwTxReady_stuck (s : State) (c : Chan) : (hwTxReady s c).2.stuck = s.stuck := rfl
@[simp] theorem hwTxReady_resp (s : State) (c : Chan) : (hwTxReady s c).2.resp = s.resp := rfl
@[simp] theorem hwTxReady_mem (s : State) (c : Chan) : (hwTxReady s c).2.mem = s.mem := rfl
@[simp] theorem hwTxReady_turns (s : State) (c : Chan) : (hwTxReady s c).2.turns = s.turns := rfl
@[simp] theorem hwTxReady_host (s : State) (c : Chan) : (hwTxReady s c).2.host = s.host := rfl
@[simp] theorem hwTxReady_subTicks (s : State) (c : Chan) : (hwTxReady s c).2.subTicks = s.subTicks := rfl
@[simp] theorem hwTxReady_chan (s : State) (c : Chan) (d : Chan) : (hwTxReady s c).2.chan d = s.chan d := rfl
@[simp] theorem hwTxReady_tx (s : State) (c : Chan) (d : Chan) : (hwTxReady s c).2.tx d = s.tx d := rfl
@[simp] theorem hwTxReady_rx (s : State) (c : Chan) (d : Chan) : (hwTxReady s c).2.rx d = s.rx d := rfl
@[simp] theorem hwTxReady_log (s : State) (c : Chan) (d : Chan) : (hwTxReady s c).2.log d = s.log d := rfl
@[simp] theorem hwTxReady_timeout (s : State) (c : Chan) (d : Chan) : (hwTxReady s c).2.timeout d = s.timeout d := rfl

/-! hwRxReady -/

@[simp] theorem hwRxReady_params (s : State) (c : Chan) : (hwRxReady s c).2.params = s.params := rfl
@[simp] theorem hwRxReady_clk (s : State) (c : Chan) : (hwRxReady s c).2.clk = s.clk := rfl
@[simp] theorem hwRxReady_ch (s : State) (c : Chan) : (hwRxReady s c).2.ch = s.ch := rfl
@[simp] theorem hwRxReady_txLog (s : State) (c : Chan) : (hwRxReady s c).2.txLog = s.txLog := rfl
@[simp] theorem hwRxReady_micro (s : State) (c : Chan) : (hwRxReady s c).2.micro = s.micro := rfl
@[simp] theorem hwRxReady_stuck (s : State) (c : Chan) : (hwRxReady s c).2.stuck = s.stuck := rfl
@[simp] theorem hwRxReady_resp (s : State) (c : Chan) : (hwRxReady s c).2.resp = s.resp := rfl
@[simp] theorem hwRxReady_mem (s : State) (c : Chan) : (hwRxReady s c).2.mem = s.mem := rfl
@[simp] theorem hwRxReady_turns (s : State) (c : Chan) : (hwRxReady s c).2.turns = s.turns := rfl
@[simp] theorem hwRxReady_host (s : State) (c : Chan) : (hwRxReady s c).2.host = s.host := rfl
@[simp] theorem hwRxReady_subTicks (s : State) (c : Chan) : (hwRxReady s c).2.subTicks = s.subTicks := rfl
@[simp] theorem hwRxReady_chan (s : State) (c : Chan) (d : Chan) : (hwRxReady s c).2.chan d = s.chan d := rfl
@[simp] theorem hwRxReady_tx (s : State) (c : Chan) (d : Chan) : (hwRxReady s c).2.tx d = s.tx d := rfl
@[simp] theorem hwRxReady_rx (s : State) (c : Chan) (d : Chan) : (hwRxReady s c).2.rx d = s.rx d := rfl
@[simp] theorem hwRxReady_log (s : State) (c : Chan) (d : Chan) : (hwRxReady s c).2.log d = s.log d := rfl
@[simp] theorem hwRxReady_timeout (s : State) (c : Chan) (d : Chan) : (hwRxReady s c).2.timeout d = s.timeout d := rfl

/-! hwRead -/

@[simp] theorem hwRead_params (s : State) (c : Chan) : (hwRead s c).2.params = s.params := rfl
@[simp] theorem hwRead_clk (s : State) (c : Chan) : (hwRead s c).2.clk = s.clk := rfl
@[simp] theorem hwRead_ch (s : State) (c : Chan) : (hwRead s c).2.ch = s.ch := rfl
@[simp] theorem hwRead_txLog (s : State) (c : Chan) : (hwRead s c).2.txLog = s.txLog := rfl
@[simp] theorem hwRead_micro (s : State) (c : Chan) : (hwRead s c).2.micro = s.micro := rfl
@[simp] theorem hwRead_stuck (s : State) (c : Chan) : (hwRead s c).2.stuck = s.stuck := rfl
@[simp] theorem hwRead_resp (s : State) (c : Chan) : (hwRead s c).2.resp = s.resp := rfl
@[simp] theorem hwRead_mem (s : State) (c : Chan) : (hwRead s c).2.mem = s.mem := rfl
@[simp] theorem hwRead_turns (s : State) (c : Chan) : (hwRead s c).2.turns = s.turns := rfl
@[simp] theorem hwRead_host (s : State) (c : Chan) : (hwRead s c).2.host = s.host := rfl
@[simp] theorem hwRead_subTicks (s : State) (c : Chan) : (hwRead s c).2.subTicks = s.subTicks := rfl
@[simp] theorem hwRead_chan (s : State) (c : Chan) (d : Chan) : (hwRead s c).2.chan d = s.chan d := rfl
@[simp] theorem hwRead_tx (s : State) (c : Chan) (d : Chan) : (hwRead s c).2.tx d = s.tx d := rfl
@[simp] theorem hwRead_rx (s : State) (c : Chan) (d : Chan) : (hwRead s c).2.rx d = s.rx d := rfl
@[simp] theorem hwRead_log (s : State) (c : Chan) (d : Chan) : (hwRead s c).2.log d = s.log d := rfl
@[simp] theorem hwRead_timeout (s : State) (c : Chan) (d : Chan) : (hwRead s c).2.timeout d = s.timeout d := rfl

/-! hwWrite -/

@[simp] theorem hwWrite_params (s : State) (c : Chan) (b : Byte) : (hwWrite s c b).params = s.params := rfl
@[simp] theorem hwWrite_clk (s : State) (c : Chan) (b : Byte) : (hwWrite s c b).clk = s.clk := rfl
@[simp] theorem hwWrite_ch (s : State) (c : Chan) (b : Byte) : (hwWrite s c b).ch = s.ch := rfl
@[simp] theorem hwWrite_micro (s : State) (c : Chan) (b : Byte) : (hwWrite s c b).micro = s.micro := rfl
@[simp] theorem hwWrite_stuck (s : State) (c : Chan) (b : Byte) : (hwWrite s c b).stuck = s.stuck := rfl
@[simp] theorem hwWrite_resp (s : State) (c : Chan) (b : Byte) : (hwWrite s c b).resp = s.resp := rfl
@[simp] theorem hwWrite_mem (s : State) (c : Chan) (b : Byte) : (hwWrite s c b).mem = s.mem := rfl
@[simp] theorem hwWrite_turns (s : State) (c : Chan) (b : Byte) : (hwWrite s c b).turns = s.turns := rfl
@[simp] theorem hwWrite_host (s : State) (c : Chan) (b : Byte) : (hwWrite s c b).host = s.host := rfl
@[simp] theorem hwWrite_subTicks (s : State) (c : Chan) (b : Byte) : (hwWrite s c b).subTicks = s.subTicks := rfl
@[simp] theorem hwWrite_lines (s : State) (c : Chan) (b : Byte) : (hwWrite s c b).lines = s.lines := rfl
@[simp] theorem hwWrite_chan (s : State) (c : Chan) (b : Byte) (d : Chan) : (hwWrite s c b).chan d = s.chan d := rfl
@[simp] theorem hwWrite_tx (s : State) (c : Chan) (b : Byte) (d : Chan) : (hwWrite s c b).tx d = s.tx d := rfl
@[simp] theorem hwWrite_rx (s : State) (c : Chan) (b : Byte) (d : Chan) : (hwWrite s c b).rx d = s.rx d := rfl
@[simp] theorem hwWrite_line (s : State) (c : Chan) (b : Byte) (d : Chan) : (hwWrite s c b).line d = s.line d := rfl
@[simp] theorem hwWrite_timeout (s : State) (c : Chan) (b : Byte) (d : Chan) : (hwWrite s c b).timeout d = s.timeout d := rfl

/-! subTick -/

@[simp] theorem subTick_params (s : State) : (subTick s).2.params = s.params := rfl
@[simp] theorem subTick_clk (s : State) : (subTick s).2.clk = s.clk := rfl
@[simp] theorem subTick_ch (s : State) : (subTick s).2.ch = s.ch := rfl
@[simp] theorem subTick_txLog (s : State) : (subTick s).2.txLog = s.txLog := rfl
@[simp] theorem subTick_micro (s : State) : (subTick s).2.micro = s.micro := rfl
@[simp] theorem subTick_stuck (s : State) : (subTick s).2.stuck = s.stuck := rfl
@[simp] theorem subTick_resp (s : State) : (subTick s).2.resp = s.resp := rfl
@[simp] theorem subTick_mem (s : State) : (subTick s).2.mem = s.mem := rfl
@[simp] theorem subTick_turns (s : State) : (subTick s).2.turns = s.turns := rfl
@[simp] theorem subTick_host (s : State) : (subTick s).2.host = s.host := rfl
@[simp] theorem subTick_lines (s : State) : (subTick s).2.lines = s.lines := rfl
@[simp] theorem subTick_chan (s : State) (d : Chan) : (subTick s).2.chan d = s.chan d := rfl
@[simp] theorem subTick_tx (s : State) (d : Chan) : (subTick s).2.tx d = s.tx d := rfl
@[simp] theorem subTick_rx (s : State) (d : Chan) : (subTick s).2.rx d = s.rx d := rfl
@[simp] theorem subTick_log (s : State) (d : Chan) : (subTick s).2.log d = s.log d := rfl
@[simp] theorem subTick_line (s : State) (d : Chan) : (subTick s).2.line d = s.line d := rfl
@[simp] theorem subTick_timeout (s : State) (d : Chan) : (subTick s).2.timeout d = s.timeout d := rfl

/-! ret -/

@[simp] theorem ret_params (s : State) (st : Status) (r0 r1 : Word) : (s.ret st r0 r1).params = s.params := rfl
@[simp] theorem ret_clk (s : State) (st : Status) (r0 r1 : Word) : (s.ret st r0 r1).clk = s.clk := rfl
@[simp] theorem ret_ch (s : State) (st : Status) (r0 r1 : Word) : (s.ret st r0 r1).ch = s.ch := rfl
@[simp] theorem ret_txLog (s : State) (st : Status) (r0 r1 : Word) : (s.ret st r0 r1).txLog = s.txLog := rfl
@[simp] theorem ret_stuck (s : State) (st : Status) (r0 r1 : Word) : (s.ret st r0 r1).stuck = s.stuck := rfl
@[simp] theorem ret_mem (s : State) (st : Status) (r0 r1 : Word) : (s.ret st r0 r1).mem = s.mem := rfl
@[simp] theorem ret_turns (s : State) (st : Status) (r0 r1 : Word) : (s.ret st r0 r1).turns = s.turns := rfl
@[simp] theorem ret_host (s : State) (st : Status) (r0 r1 : Word) : (s.ret st r0 r1).host = s.host := rfl
@[simp] theorem ret_subTicks (s : State) (st : Status) (r0 r1 : Word) : (s.ret st r0 r1).subTicks = s.subTicks := rfl
@[simp] theorem ret_lines (s : State) (st : Status) (r0 r1 : Word) : (s.ret st r0 r1).lines = s.lines := rfl
@[simp] theorem ret_chan (s : State) (st : Status) (r0 r1 : Word) (d : Chan) : (s.ret st r0 r1).chan d = s.chan d := rfl
@[simp] theorem ret_tx (s : State) (st : Status) (r0 r1 : Word) (d : Chan) : (s.ret st r0 r1).tx d = s.tx d := rfl
@[simp] theorem ret_rx (s : State) (st : Status) (r0 r1 : Word) (d : Chan) : (s.ret st r0 r1).rx d = s.rx d := rfl
@[simp] theorem ret_log (s : State) (st : Status) (r0 r1 : Word) (d : Chan) : (s.ret st r0 r1).log d = s.log d := rfl
@[simp] theorem ret_line (s : State) (st : Status) (r0 r1 : Word) (d : Chan) : (s.ret st r0 r1).line d = s.line d := rfl
@[simp] theorem ret_timeout (s : State) (st : Status) (r0 r1 : Word) (d : Chan) : (s.ret st r0 r1).timeout d = s.timeout d := rfl

/-! hang -/

@[simp] theorem hang_params (s : State) (a : Access) : (s.hang a).params = s.params := rfl
@[simp] theorem hang_clk (s : State) (a : Access) : (s.hang a).clk = s.clk := rfl
@[simp] theorem hang_ch (s : State) (a : Access) : (s.hang a).ch = s.ch := rfl
@[simp] theorem hang_txLog (s : State) (a : Access) : (s.hang a).txLog = s.txLog := rfl
@[simp] theorem hang_micro (s : State) (a : Access) : (s.hang a).micro = s.micro := rfl
@[simp] theorem hang_mem (s : State) (a : Access) : (s.hang a).mem = s.mem := rfl
@[simp] theorem hang_turns (s : State) (a : Access) : (s.hang a).turns = s.turns := rfl
@[simp] theorem hang_host (s : State) (a : Access) : (s.hang a).host = s.host := rfl
@[simp] theorem hang_subTicks (s : State) (a : Access) : (s.hang a).subTicks = s.subTicks := rfl
@[simp] theorem hang_lines (s : State) (a : Access) : (s.hang a).lines = s.lines := rfl
@[simp] theorem hang_chan (s : State) (a : Access) (d : Chan) : (s.hang a).chan d = s.chan d := rfl
@[simp] theorem hang_tx (s : State) (a : Access) (d : Chan) : (s.hang a).tx d = s.tx d := rfl
@[simp] theorem hang_rx (s : State) (a : Access) (d : Chan) : (s.hang a).rx d = s.rx d := rfl
@[simp] theorem hang_log (s : State) (a : Access) (d : Chan) : (s.hang a).log d = s.log d := rfl
@[simp] theorem hang_line (s : State) (a : Access) (d : Chan) : (s.hang a).line d = s.line d := rfl
@[simp] theorem hang_timeout (s : State) (a : Access) (d : Chan) : (s.hang a).timeout d = s.timeout d := rfl

/-! pause -/

@[simp] theorem pause_params (s : State) (m : Micro) : (s.pause m).params = s.params := rfl
@[simp] theorem pause_clk (s : State) (m : Micro) : (s.pause m).clk = s.clk := rfl
@[simp] theorem pause_ch (s : State) (m : Micro) : (s.pause m).ch = s.ch := rfl
@[simp] theorem pause_txLog (s : State) (m : Micro) : (s.pause m).txLog = s.txLog := rfl
@[simp] theorem pause_stuck (s : State) (m : Micro) : (s.pause m).stuck = s.stuck := rfl
@[simp] theorem pause_mem (s : State) (m : Micro) : (s.pause m).mem = s.mem := rfl
@[simp] theorem pause_turns (s : State) (m : Micro) : (s.pause m).turns = s.turns := rfl
@[simp] theorem pause_host (s : State) (m : Micro) : (s.pause m).host = s.host := rfl
@[simp] theorem pause_subTicks (s : State) (m : Micro) : (s.pause m).subTicks = s.subTicks := rfl
@[simp] theorem pause_lines (s : State) (m : Micro) : (s.pause m).lines = s.lines := rfl
@[simp] theorem pause_chan (s : State) (m : Micro) (d : Chan) : (s.pause m).chan d = s.chan d := rfl
@[simp] theorem pause_tx (s : State) (m : Micro) (d : Chan) : (s.pause m).tx d = s.tx d := rfl
@[simp] theorem pause_rx (s : State) (m : Micro) (d : Chan) : (s.pause m).rx d = s.rx d := rfl
@[simp] theorem pause_log (s : State) (m : Micro) (d : Chan) : (s.pause m).log d = s.log d := rfl
@[simp] theorem pause_line (s : State) (m : Micro) (d : Chan) : (s.pause m).line d = s.line d := rfl
@[simp] theorem pause_timeout (s : State) (m : Micro) (d : Chan) : (s.pause m).timeout d = s.timeout d := rfl

/-! storeByte -/

@[simp] theorem storeByte_params (s : State) (a : Word) (b : Byte) : (storeByte s a b).params = s.params := rfl
@[simp] theorem storeByte_clk (s : State) (a : Word) (b : Byte) : (storeByte s a b).clk = s.clk := rfl
@[simp] theorem storeByte_ch (s : State) (a : Word) (b : Byte) : (storeByte s a b).ch = s.ch := rfl
@[simp] theorem storeByte_txLog (s : State) (a : Word) (b : Byte) : (storeByte s a b).txLog = s.txLog := rfl
@[simp] theorem storeByte_micro (s : State) (a : Word) (b : Byte) : (storeByte s a b).micro = s.micro := rfl
@[simp] theorem storeByte_stuck (s : State) (a : Word) (b : Byte) : (storeByte s a b).stuck = s.stuck := rfl
@[simp] theorem storeByte_resp (s : State) (a : Word) (b : Byte) : (storeByte s a b).resp = s.resp := rfl
@[simp] theorem storeByte_turns (s : State) (a : Word) (b : Byte) : (storeByte s a b).turns = s.turns := rfl
@[simp] theorem storeByte_host (s : State) (a : Word) (b : Byte) : (storeByte s a b).host = s.host := rfl
@[simp] theorem storeByte_subTicks (s : State) (a : Word) (b : Byte) : (storeByte s a b).subTicks = s.subTicks := rfl
@[simp] theorem storeByte_lines (s : State) (a : Word) (b : Byte) : (storeByte s a b).lines = s.lines := rfl
@[simp] theorem storeByte_chan (s : State) (a : Word) (b : Byte) (d : Chan) : (storeByte s a b).chan d = s.chan d := rfl
@[simp] theorem storeByte_tx (s : State) (a : Word) (b : Byte) (d : Chan) : (storeByte s a b).tx d = s.tx d := rfl
@[simp] theorem storeByte_rx (s : State) (a : Word) (b : Byte) (d : Chan) : (storeByte s a b).rx d = s.rx d := rfl
@[simp] theorem storeByte_log (s : State) (a : Word) (b : Byte) (d : Chan) : (storeByte s a b).log d = s.log d := rfl
@[simp] theorem storeByte_line (s : State) (a : Word) (b : Byte) (d : Chan) : (storeByte s a b).line d = s.line d := rfl
@[simp] theorem storeByte_timeout (s : State) (a : Word) (b : Byte) (d : Chan) : (storeByte s a b).timeout d = s.timeout d := rfl

/-! takeTick -/

@[simp] theorem takeTick_params (s : State) : (takeTick s).params = s.params := rfl
@[simp] theorem takeTick_ch (s : State) : (takeTick s).ch = s.ch := rfl
@[simp] theorem takeTick_txLog (s : State) : (takeTick s).txLog = s.txLog := rfl
@[simp] theorem takeTick_micro (s : State) : (takeTick s).micro = s.micro := rfl
@[simp] theorem takeTick_stuck (s : State) : (takeTick s).stuck = s.stuck := rfl
@[simp] theorem takeTick_resp (s : State) : (takeTick s).resp = s.resp := rfl
@[simp] theorem takeTick_mem (s : State) : (takeTick s).mem = s.mem := rfl
@[simp] theorem takeTick_turns (s : State) : (takeTick s).turns = s.turns := rfl
@[simp] theorem takeTick_host (s : State) : (takeTick s).host = s.host := rfl
@[simp] theorem takeTick_subTicks (s : State) : (takeTick s).subTicks = s.subTicks := rfl
@[simp] theorem takeTick_lines (s : State) : (takeTick s).lines = s.lines := rfl
@[simp] theorem takeTick_chan (s : State) (d : Chan) : (takeTick s).chan d = s.chan d := rfl
@[simp] theorem takeTick_tx (s : State) (d : Chan) : (takeTick s).tx d = s.tx d := rfl
@[simp] theorem takeTick_rx (s : State) (d : Chan) : (takeTick s).rx d = s.rx d := rfl
@[simp] theorem takeTick_log (s : State) (d : Chan) : (takeTick s).log d = s.log d := rfl
@[simp] theorem takeTick_line (s : State) (d : Chan) : (takeTick s).line d = s.line d := rfl
@[simp] theorem takeTick_timeout (s : State) (d : Chan) : (takeTick s).timeout d = s.timeout d := rfl

/-! nextTurn -/

@[simp] theorem nextTurn_params (s : State) : (nextTurn s).2.params = s.params := rfl
@[simp] theorem nextTurn_clk (s : State) : (nextTurn s).2.clk = s.clk := rfl
@[simp] theorem nextTurn_ch (s : State) : (nextTurn s).2.ch = s.ch := rfl
@[simp] theorem nextTurn_txLog (s : State) : (nextTurn s).2.txLog = s.txLog := rfl
@[simp] theorem nextTurn_micro (s : State) : (nextTurn s).2.micro = s.micro := rfl
@[simp] theorem nextTurn_stuck (s : State) : (nextTurn s).2.stuck = s.stuck := rfl
@[simp] theorem nextTurn_resp (s : State) : (nextTurn s).2.resp = s.resp := rfl
@[simp] theorem nextTurn_mem (s : State) : (nextTurn s).2.mem = s.mem := rfl
@[simp] theorem nextTurn_host (s : State) : (nextTurn s).2.host = s.host := rfl
@[simp] theorem nextTurn_subTicks (s : State) : (nextTurn s).2.subTicks = s.subTicks := rfl
@[simp] theorem nextTurn_lines (s : State) : (nextTurn s).2.lines = s.lines := rfl
@[simp] theorem nextTurn_chan (s : State) (d : Chan) : (nextTurn s).2.chan d = s.chan d := rfl
@[simp] theorem nextTurn_tx (s : State) (d : Chan) : (nextTurn s).2.tx d = s.tx d := rfl
@[simp] theorem nextTurn_rx (s : State) (d : Chan) : (nextTurn s).2.rx d = s.rx d := rfl
@[simp] theorem nextTurn_log (s : State) (d : Chan) : (nextTurn s).2.log d = s.log d := rfl
@[simp] theorem nextTurn_line (s : State) (d : Chan) : (nextTurn s).2.line d = s.line d := rfl
@[simp] theorem nextTurn_timeout (s : State) (d : Chan) : (nextTurn s).2.timeout d = s.timeout d := rfl

/-! nextAct -/

@[simp] theorem nextAct_params (s : State) : (nextAct s).2.params = s.params := rfl
@[simp] theorem nextAct_clk (s : State) : (nextAct s).2.clk = s.clk := rfl
@[simp] theorem nextAct_ch (s : State) : (nextAct s).2.ch = s.ch := rfl
@[simp] theorem nextAct_txLog (s : State) : (nextAct s).2.txLog = s.txLog := rfl
@[simp] theorem nextAct_micro (s : State) : (nextAct s).2.micro = s.micro := rfl
@[simp] theorem nextAct_stuck (s : State) : (nextAct s).2.stuck = s.stuck := rfl
@[simp] theorem nextAct_resp (s : State) : (nextAct s).2.resp = s.resp := rfl
@[simp] theorem nextAct_mem (s : State) : (nextAct s).2.mem = s.mem := rfl
@[simp] theorem nextAct_turns (s : State) : (nextAct s).2.turns = s.turns := rfl
@[simp] theorem nextAct_subTicks (s : State) : (nextAct s).2.subTicks = s.subTicks := rfl
@[simp] theorem nextAct_lines (s : State) : (nextAct s).2.lines = s.lines := rfl
@[simp] theorem nextAct_chan (s : State) (d : Chan) : (nextAct s).2.chan d = s.chan d := rfl
@[simp] theorem nextAct_tx (s : State) (d : Chan) : (nextAct s).2.tx d = s.tx d := rfl
@[simp] theorem nextAct_rx (s : State) (d : Chan) : (nextAct s).2.rx d = s.rx d := rfl
@[simp] theorem nextAct_log (s : State) (d : Chan) : (nextAct s).2.log d = s.log d := rfl
@[simp] theorem nextAct_line (s : State) (d : Chan) : (nextAct s).2.line d = s.line d := rfl
@[simp] theorem nextAct_timeout (s : State) (d : Chan) : (nextAct s).2.timeout d = s.timeout d := rfl

/-! Values of the updated fields -/

@[simp] theorem ret_micro (s : State) (st : Status) (r0 r1 : Word) : (s.ret st r0 r1).micro = none := rfl
@[simp] theorem ret_resp (s : State) (st : Status) (r0 r1 : Word) : (s.ret st r0 r1).resp = some ⟨st, r0, r1, 0⟩ := rfl
@[simp] theorem hang_stuck (s : State) (a : Access) : (s.hang a).stuck = some a := rfl
@[simp] theorem hang_resp (s : State) (a : Access) : (s.hang a).resp = none := rfl
@[simp] theorem pause_micro (s : State) (m : Micro) : (s.pause m).micro = some m := rfl
@[simp] theorem pause_resp (s : State) (m : Micro) : (s.pause m).resp = none := rfl
@[simp] theorem storeByte_mem (s : State) (a : Word) (b : Byte) : (storeByte s a b).mem = memWrite s.mem a.toNat b := rfl
@[simp] theorem retOk_eq (s : State) (r0 r1 : Word) : s.retOk r0 r1 = s.ret .ok r0 r1 := rfl
@[simp] theorem retRejected_eq (s : State) : s.retRejected = s.ret .rejected 0 0 := rfl
@[simp] theorem retIllegal_eq (s : State) : s.retIllegal = s.ret .illegal 0 0 := rfl
@[simp] theorem conclude_going (s : State) : conclude (.going s) = s.ret .ok 0 0 := rfl
@[simp] theorem conclude_hung (s : State) (a : Access) : conclude (.hung s a) = s.hang a := rfl

/-! The channel views after a channel update -/

theorem setTx_chan (s : State) (c d : Chan) (t : TxSide) :
    (s.setTx c t).chan d = if d = c then { s.chan c with tx := t } else s.chan d := by
  by_cases h : d = c
  · subst h
    simp [State.chan, State.setTx]
  · have h' : c.val ≠ d.val := fun e => h (Fin.ext e.symm)
    simp [State.chan, State.setTx, h, Vector.getElem_set_ne, h']

theorem setRx_chan (s : State) (c d : Chan) (r : RxSide) :
    (s.setRx c r).chan d = if d = c then { s.chan c with rx := r } else s.chan d := by
  by_cases h : d = c
  · subst h
    simp [State.chan, State.setRx]
  · have h' : c.val ≠ d.val := fun e => h (Fin.ext e.symm)
    simp [State.chan, State.setRx, h, Vector.getElem_set_ne, h']

@[simp] theorem setTx_tx (s : State) (c d : Chan) (t : TxSide) :
    (s.setTx c t).tx d = if d = c then t else s.tx d := by
  unfold State.tx
  rw [setTx_chan]
  split <;> rfl

@[simp] theorem setTx_rx (s : State) (c d : Chan) (t : TxSide) : (s.setTx c t).rx d = s.rx d := by
  unfold State.rx
  rw [setTx_chan]
  split
  · subst d; rfl
  · rfl

@[simp] theorem setRx_rx (s : State) (c d : Chan) (r : RxSide) :
    (s.setRx c r).rx d = if d = c then r else s.rx d := by
  unfold State.rx
  rw [setRx_chan]
  split <;> rfl

@[simp] theorem setRx_tx (s : State) (c d : Chan) (r : RxSide) : (s.setRx c r).tx d = s.tx d := by
  unfold State.tx
  rw [setRx_chan]
  split
  · subst d; rfl
  · rfl

@[simp] theorem setLine_line (s : State) (c d : Chan) (l : Line) :
    (s.setLine c l).line d = if d = c then l else s.line d := by
  by_cases h : d = c
  · subst h
    simp [State.line, State.setLine]
  · have h' : c.val ≠ d.val := fun e => h (Fin.ext e.symm)
    simp [State.line, State.setLine, h, Vector.getElem_set_ne, h']

@[simp] theorem hwWrite_log (s : State) (c d : Chan) (b : Byte) :
    (hwWrite s c b).log d = if d = c then s.log c ++ [b] else s.log d := by
  by_cases h : d = c
  · subst h
    simp [State.log, hwWrite]
  · have h' : c.val ≠ d.val := fun e => h (Fin.ext e.symm)
    simp [State.log, hwWrite, h, Vector.getElem_set_ne, h']

end Sys2Proof.Machine
end

