-- ==== Sys2Proof/Laws/Ops.lean ====
section
/-! SUPPORT. One lemma per shared operation that says what it can do; the provers cite these instead of unfolding. -/

namespace Sys2Proof.Machine

open Sys2Proof

/-! ## Draws -/

@[simp] theorem draw_cons {α : Type} (free : Nat → α) (x : α) (xs : List α) (n : Nat) :
    draw free ⟨x :: xs, n⟩ = (x, ⟨xs, n + 1⟩) := rfl

@[simp] theorem draw_nil {α : Type} (free : Nat → α) (n : Nat) : draw free ⟨[], n⟩ = (free n, ⟨[], n + 1⟩) := rfl

theorem draw_of_queue {α : Type} (free : Nat → α) (d : Draws α) (x : α) (xs : List α) (h : d.queue = x :: xs) :
    draw free d = (x, ⟨xs, d.taken + 1⟩) := by
  simp [draw, h]

@[simp] theorem draw_taken {α : Type} (free : Nat → α) (d : Draws α) : (draw free d).2.taken = d.taken + 1 := by
  unfold draw
  split <;> rfl

/-- A sub-period reading is below the tick period (R12). -/
theorem subTick_lt {s : State} (h0 : 1 ≤ s.params.tickNs) (h1 : s.params.tickNs < nsPerS) :
    (subTick s).1.toNat < s.params.tickNs := by
  have hm : (draw Config.freeSubTick s.subTicks).1.toNat % s.params.tickNs < s.params.tickNs := Nat.mod_lt _ h0
  simp only [nsPerS] at h1
  simp only [subTick, BitVec.toNat_ofNat]
  rw [Nat.mod_eq_of_lt (by omega)]
  exact hm

/-! ## Time -/

theorem normalize_ns (s : Word) (n : Nat) : (normalize s n).ns.toNat = n % nsPerS := by
  have : n % nsPerS < nsPerS := Nat.mod_lt _ (by decide)
  simp only [nsPerS] at this
  simp only [normalize, nsPerS, BitVec.toNat_ofNat]
  omega

theorem normalize_sec (s : Word) (n : Nat) : (normalize s n).sec.toNat = (s.toNat + n / nsPerS) % 2 ^ 32 := by
  simp [normalize, BitVec.toNat_add]

theorem normalize_valid (s : Word) (n : Nat) : tsValid (normalize s n) := by
  unfold tsValid
  rw [normalize_ns]
  exact Nat.mod_lt _ (by decide)

/-- The nanoseconds of a difference of valid timestamps, and its borrow. -/
theorem deltaNs_cases (a b : Timestamp) :
    (b.ns.toNat ≤ a.ns.toNat ∧ deltaNs a b = (a.ns.toNat - b.ns.toNat, 0)) ∨
    (a.ns.toNat < b.ns.toNat ∧ deltaNs a b = (a.ns.toNat + nsPerS - b.ns.toNat, 1)) := by
  unfold deltaNs
  split
  · exact .inl ⟨‹_›, rfl⟩
  · exact .inr ⟨by omega, rfl⟩

/-- A timestamp operand is read exactly when it is valid (R115). -/
theorem tsOperand_of_valid {sec ns : Word} (h : ns.toNat < nsPerS) : tsOperand sec ns = some ⟨sec, ns⟩ := by
  simp [tsOperand, h]

theorem tsOperand_of_invalid {sec ns : Word} (h : nsPerS ≤ ns.toNat) : tsOperand sec ns = none := by
  simp [tsOperand, Nat.not_lt.mpr h]

/-! ## Memory reads -/

theorem loadByte_ok {s : State} {a : Word} (h : memOk s.params ⟨.read, a⟩ = true) :
    loadByte s a = .ok (memRead s.mem a.toNat) := by
  simp [loadByte, h]

theorem loadByte_refused {s : State} {a : Word} (h : memOk s.params ⟨.read, a⟩ = false) :
    loadByte s a = .error ⟨.read, a⟩ := by
  simp [loadByte, h]

/-- A byte read depends on the parameters and the memory alone. -/
theorem loadByte_congr {s t : State} (hp : s.params = t.params) (hm : s.mem = t.mem) (a : Word) :
    loadByte s a = loadByte t a := by
  simp [loadByte, hp, hm]

/-! ## The fragment search -/

/-- What `first_nonempty` finds (R202). -/
theorem firstNonempty_some {t : TxSide} {j : Nat} {k : Fin 32} (h : firstNonempty t j = some k) :
    j ≤ k.val ∧ k.val < t.fcount.toNat ∧ t.ft[k.val].len ≠ 0 := by
  have := List.find?_some h
  simp only [Bool.and_eq_true, decide_eq_true_eq] at this
  exact ⟨this.1.1, this.1.2, this.2⟩

/-- When `first_nonempty` finds nothing (R202). -/
theorem firstNonempty_none {t : TxSide} {j : Nat} (h : firstNonempty t j = none) (k : Fin 32) (hj : j ≤ k.val)
    (hk : k.val < t.fcount.toNat) : t.ft[k.val].len = 0 := by
  have := List.find?_eq_none.mp h k (List.mem_finRange k)
  simp only [Bool.and_eq_true, decide_eq_true_eq, not_and, not_not] at this
  exact this ⟨hj, hk⟩

/-! ## Inversions: every way an operation can go -/

/-- The transmit half of POLL (R203). -/
theorem txStep_cases (s : State) (c : Chan) :
    ((s.tx c).state = .idle ∧ txStep s c = .going s) ∨
    ((s.tx c).state = .draining ∧ (hwTxReady s c).1 = false ∧ txStep s c = .going (hwTxReady s c).2) ∨
    ((s.tx c).state = .draining ∧ (hwTxReady s c).1 = true ∧ memOk s.params ⟨.read, (s.tx c).curAddr⟩ = false ∧
      txStep s c = .hung (hwTxReady s c).2 ⟨.read, (s.tx c).curAddr⟩) ∨
    ((s.tx c).state = .draining ∧ (hwTxReady s c).1 = true ∧ memOk s.params ⟨.read, (s.tx c).curAddr⟩ = true ∧
      txStep s c = .going ((hwWrite (hwTxReady s c).2 c (memRead s.mem (s.tx c).curAddr.toNat)).setTx c
        (advanceTx (s.tx c)))) := by
  unfold txStep
  cases hs : (s.tx c).state with
  | idle => exact .inl ⟨rfl, by simp⟩
  | draining =>
    cases hr : (hwTxReady s c).1 with
    | false => exact .inr (.inl ⟨rfl, rfl, by simp [hr]⟩)
    | true =>
      cases hm : memOk s.params ⟨.read, (s.tx c).curAddr⟩ with
      | false => exact .inr (.inr (.inl ⟨rfl, rfl, rfl, by simp [hr, loadByte, hm]⟩))
      | true => exact .inr (.inr (.inr ⟨rfl, rfl, rfl, by simp [hr, loadByte, hm]⟩))

/-- The state after the line's receive answers of one POLL: one HwRxReady, and one HwRead if it answered 1 (R251). -/
def afterLine (s : State) (c : Chan) : State :=
  if (hwRxReady s c).1 then (hwRead (hwRxReady s c).2 c).2 else (hwRxReady s c).2

/-- The receive half of POLL (R251). -/
theorem rxStep_cases (s : State) (c : Chan) (t : Timestamp) :
    (acceptedByte (s.rx c) (hwRxReady s c).1 (hwRead (hwRxReady s c).2 c).1 = none ∧
      rxStep s c t = .going ((afterLine s c).setRx c (checkComplete (s.rx c) (s.timeout c) t))) ∨
    (∃ b, acceptedByte (s.rx c) (hwRxReady s c).1 (hwRead (hwRxReady s c).2 c).1 = some b ∧
      memOk s.params ⟨.write, (s.rx c).buf + (s.rx c).idx⟩ = true ∧
      rxStep s c t = .going ((storeByte (afterLine s c) ((s.rx c).buf + (s.rx c).idx) b).setRx c
        (checkComplete { s.rx c with idx := (s.rx c).idx + 1, last := t } (s.timeout c) t))) ∨
    (∃ b, acceptedByte (s.rx c) (hwRxReady s c).1 (hwRead (hwRxReady s c).2 c).1 = some b ∧
      memOk s.params ⟨.write, (s.rx c).buf + (s.rx c).idx⟩ = false ∧
      rxStep s c t = .hung (afterLine s c) ⟨.write, (s.rx c).buf + (s.rx c).idx⟩) := by
  unfold rxStep afterLine
  cases ha : acceptedByte (s.rx c) (hwRxReady s c).1 (hwRead (hwRxReady s c).2 c).1 with
  | none => exact .inl ⟨rfl, by simp [ha]⟩
  | some b =>
    cases hm : memOk s.params ⟨.write, (s.rx c).buf + (s.rx c).idx⟩ with
    | true => exact .inr (.inl ⟨b, rfl, rfl, by simp [ha, hm]⟩)
    | false => exact .inr (.inr ⟨b, rfl, rfl, by simp [ha, hm]⟩)

/-- The receive answers of a POLL change the lines only. -/
theorem afterLine_eq (s : State) (c : Chan) : ∃ ls, afterLine s c = { s with lines := ls } := by
  unfold afterLine
  split
  · exact ⟨_, rfl⟩
  · exact ⟨_, rfl⟩

/-- A byte is accepted only when the line had one, the slot is armed and no error came with it (R251). -/
theorem acceptedByte_some {r : RxSide} {ready : Bool} {got : Byte × Bool} {b : Byte}
    (h : acceptedByte r ready got = some b) : r.state = .armed ∧ ready = true ∧ got = (b, false) := by
  unfold acceptedByte at h
  split at h
  · split at h
    · rename_i h1 h2
      simp only [Bool.and_eq_true, Bool.not_eq_true'] at h2
      obtain ⟨x, y⟩ := got
      simp only [Option.some.injEq] at h h2
      exact ⟨h1, h2.1, by rw [h, h2.2]⟩
    · cases h
  · cases h

/-- The idle-timeout detector (R252): unarmed, full, idle, or neither. -/
theorem checkComplete_cases (r : RxSide) (timeout t : Timestamp) :
    (r.state = .unarmed ∧ checkComplete r timeout t = r) ∨
    (r.state = .armed ∧ r.idx = r.cap ∧ checkComplete r timeout t = completeRx r r.cap) ∨
    (r.state = .armed ∧ r.idx ≠ r.cap ∧ idleElapsed r timeout t = true ∧ checkComplete r timeout t = completeRx r r.idx) ∨
    (r.state = .armed ∧ r.idx ≠ r.cap ∧ idleElapsed r timeout t = false ∧ checkComplete r timeout t = r) := by
  unfold checkComplete
  cases hs : r.state with
  | unarmed => exact .inl ⟨rfl, by simp⟩
  | armed =>
    by_cases hf : r.idx = r.cap
    · exact .inr (.inl ⟨rfl, hf, by simp [hf]⟩)
    · cases hi : idleElapsed r timeout t with
      | true => exact .inr (.inr (.inl ⟨rfl, hf, rfl, by simp [hf]⟩))
      | false => exact .inr (.inr (.inr ⟨rfl, hf, rfl, by simp [hf]⟩))

/-- The transmit side after a byte (R203): more of the fragment, the next non-empty fragment, or IDLE. -/
theorem advanceTx_cases (t : TxSide) :
    (t.curRem - 1 ≠ 0 ∧ advanceTx t = { t with curAddr := t.curAddr + 1, curRem := t.curRem - 1 }) ∨
    (t.curRem - 1 = 0 ∧ firstNonempty t (t.fidx.toNat + 1) = none ∧
      advanceTx t = { t with curAddr := t.curAddr + 1, curRem := t.curRem - 1, state := .idle }) ∨
    (∃ k, t.curRem - 1 = 0 ∧ firstNonempty t (t.fidx.toNat + 1) = some k ∧ advanceTx t = beginFrag t k) := by
  unfold advanceTx
  by_cases h0 : t.curRem - 1 = 0
  · cases hn : firstNonempty t (t.fidx.toNat + 1) with
    | none =>
      refine .inr (.inl ⟨h0, rfl, ?_⟩)
      simp only [h0, if_true]
      rw [show firstNonempty { t with curAddr := t.curAddr + 1, curRem := 0 } (t.fidx.toNat + 1) = none from hn]
    | some k =>
      refine .inr (.inr ⟨k, h0, rfl, ?_⟩)
      simp only [h0, if_true]
      rw [show firstNonempty { t with curAddr := t.curAddr + 1, curRem := 0 } (t.fidx.toNat + 1) = some k from hn]
      rfl
  · exact .inl ⟨h0, if_neg h0⟩

/-! ## Turns -/

/-- The machine's step is the turn of the agent drawn (R339). -/
theorem step_eq (s : State) : step s = takeTurn (nextTurn s).1 (nextTurn s).2 := rfl

/-- A host turn, by what is in progress (R19, R81). -/
theorem hostTurn_cases (s : State) :
    (∃ a, s.stuck = some a ∧ hostTurn s = .fault (.stuck a)) ∨
    (s.stuck = none ∧ ∃ m, s.micro = some m ∧ hostTurn s = .next (microStep s m)) ∨
    (s.stuck = none ∧ s.micro = none ∧ hostTurn s = hostAct (nextAct s).1 (nextAct s).2) := by
  unfold hostTurn
  cases hs : s.stuck with
  | some a => exact .inl ⟨a, rfl, rfl⟩
  | none =>
    cases hm : s.micro with
    | some m => exact .inr (.inl ⟨rfl, m, rfl, rfl⟩)
    | none => exact .inr (.inr ⟨rfl, rfl, rfl⟩)

end Sys2Proof.Machine
end

