-- ==== Sys2Proof/Laws/PerInstr.lean ====
section
/-! SUPPORT. The family of statements made per instruction: the form of every instruction's command word (R111, R113). -/

namespace Sys2Proof.Laws.WordForm

open Sys2Proof

/-- The encoded command word has RSV = 0, the OPC of its operation, and the CH of its channel, 0 for a clock command (R111). -/
def Statement (i : Instr) : Prop :=
  rsvField (encode i).word = 0 ∧ opcField (encode i).word = opcOf i.op ∧ chField (encode i).word = i.chan.getD 0

/-- The three fields of every command word, for every operation and channel. -/
theorem fields_of_commandWord : ∀ (o : Op) (c : Chan),
    rsvField (commandWord o c) = 0 ∧ opcField (commandWord o c) = opcOf o ∧ chField (commandWord o c) = c := by
  intro o
  cases o <;> decide

theorem now : Statement .now := fields_of_commandWord _ _
theorem hrnow : Statement .hrnow := fields_of_commandWord _ _
theorem delta (a b c d : Word) : Statement (.delta a b c d) := fields_of_commandWord _ _
theorem cmp (a b c d : Word) : Statement (.cmp a b c d) := fields_of_commandWord _ _
theorem norm (s n : Word) : Statement (.norm s n) := fields_of_commandWord _ _
theorem clkrd (sel : Word) : Statement (.clkrd sel) := fields_of_commandWord _ _
theorem send (c : Chan) (d n : Word) : Statement (.send c d n) := fields_of_commandWord _ _
theorem txabort (c : Chan) : Statement (.txabort c) := fields_of_commandWord _ _
theorem txbusy (c : Chan) : Statement (.txbusy c) := fields_of_commandWord _ _
theorem recv (c : Chan) (b k : Word) : Statement (.recv c b k) := fields_of_commandWord _ _
theorem rxabort (c : Chan) : Statement (.rxabort c) := fields_of_commandWord _ _
theorem rxbusy (c : Chan) : Statement (.rxbusy c) := fields_of_commandWord _ _
theorem rxstat (c : Chan) : Statement (.rxstat c) := fields_of_commandWord _ _
theorem poll (c : Chan) (s n : Word) : Statement (.poll c s n) := fields_of_commandWord _ _

end Sys2Proof.Laws.WordForm
end

