-- ==== Sys2Proof/Tests/Slice0.lean ====
section
/-! SUPPORT. The model's own tests: well-formedness refusals, words written out from R111 and R112, vectors of
95_test_vectors.md (expected values are the spec's), and for every statement with hypotheses a witness that meets them. -/

namespace Sys2Proof.Tests

open Sys2Proof Sys2Proof.Machine

/-! ## Helpers -/

/-- The state a step or an instruction answers, or the reset state when it stops. -/
def after : Host.Outcome State Fault Refusal → State
  | .next s => s
  | .fault _ => .reset
  | .refused _ => .reset

/-- The reset state with a clock. -/
def clocked (sec nsec gen : Word) : State := { State.reset with clk := ⟨sec, nsec, gen⟩ }

/-- The reset state with memory cells (given in canonical form). -/
def withMem (m : List Host.Cell) : State := { State.reset with mem := m }

/-- Memory of Program P1: two descriptors at 0x2000 and their three bytes. -/
def memP1 : List Host.Cell :=
  [(0x2001, 0x30), (0x2004, 2), (0x2009, 0x31), (0x200C, 1), (0x3000, 0x48), (0x3001, 0x49), (0x3100, 0x0A)]

/-- A transmit side with one fragment (0x3000, 2) in flight. -/
def txOne : TxSide := { TxSide.zero with
  state := .draining, fcount := 1, ft := Vector.replicate 32 ⟨0x3000, 2⟩, curAddr := 0x3000, curRem := 2 }

/-- A transmit side at the last byte of its second and last fragment. -/
def txLast : TxSide := { txOne with fcount := 2, fidx := 1, curAddr := 0x3001, curRem := 1 }

/-- A transmit side at the last byte of the first of two fragments. -/
def txMore : TxSide := { txLast with fidx := 0 }

/-- An armed slot at 0x1000. -/
def slot (cap idx : Word) (last : Timestamp) : RxSide := ⟨.armed, 0x1000, cap, idx, last, .none, 0⟩

/-- A state with the given sides on channel 1, the P1 memory, and queued line answers. -/
def chan1 (t : TxSide) (r : RxSide) (tx rx : List Bool) (rd : List (Byte × Bool)) : State :=
  ((withMem memP1).setTx 1 t).setRx 1 r |>.setLine 1 ⟨⟨tx, 0⟩, ⟨rx, 0⟩, ⟨rd, 0⟩⟩

/-- A state in which the host is about to present a command. -/
def presenting (k : Command) (s : State) : State := { s with turns := ⟨[.host], 0⟩, host := ⟨[.command k], 0⟩ }

/-- An instance that admits nothing of kind `k` from `lo` to `hi`. -/
def denying (k : AccessKind) (lo hi : Nat) (s : State) : State := { s with params := { s.params with denied := [⟨k, lo, hi⟩] } }

/-- The instance without a sub-period counter. -/
def noHr (s : State) : State := { s with params := { s.params with hrPresent := false } }

/-! ## Well-formedness: an ill-formed term the check refuses -/

theorem test_wf_refuses_absent_channel : Instr.wf 4 (.send 4 0 0) = false := by decide
theorem test_wf_accepts_last_channel : Instr.wf 4 (.poll 3 0 0) = true := by decide
theorem test_wf_accepts_clock_without_channels : Instr.wf 0 .now = true := by decide
theorem test_params_refuse_no_channel : ({ Params.source with nchan := 0 } : Params).wf = false := by decide
theorem test_params_refuse_seventeen_channels : ({ Params.source with nchan := 17 } : Params).wf = false := by decide
theorem test_params_refuse_zero_tick : ({ Params.source with tickNs := 0 } : Params).wf = false := by decide
theorem test_params_refuse_second_tick : ({ Params.source with tickNs := 1000000000 } : Params).wf = false := by decide
theorem test_params_refuse_bad_timeout :
    ({ Params.source with timeout := Vector.replicate 16 ⟨0, 1000000000⟩ } : Params).wf = false := by decide
theorem test_mem_refuses_disorder : memWf [(2, 1), (1, 1)] = false := by decide
theorem test_mem_refuses_listed_default : memWf [(1, 0)] = false := by decide
theorem test_mem_refuses_high_address : memWf [(0x100000000, 1)] = false := by decide

/-! ## Decoding: words written out from R111 and R112 (RSV 20 bits, CH 4 bits, OPC 8 bits) -/

theorem test_decode_now : decode 4 ⟨0b00000000000000000000_0000_00000001, 7, 7, 7, 7⟩ = .ok .now := by decide
theorem test_decode_hrnow : decode 4 ⟨0b00000000000000000000_0000_00000010, 0, 0, 0, 0⟩ = .ok .hrnow := by decide
theorem test_decode_delta :
    decode 4 ⟨0b00000000000000000000_0000_00000011, 1, 2, 3, 4⟩ = .ok (.delta 1 2 3 4) := by decide
theorem test_decode_cmp : decode 4 ⟨0b00000000000000000000_0000_00000100, 1, 2, 3, 4⟩ = .ok (.cmp 1 2 3 4) := by decide
theorem test_decode_norm : decode 4 ⟨0b00000000000000000000_0000_00000101, 1, 2, 3, 4⟩ = .ok (.norm 1 2) := by decide
theorem test_decode_clkrd : decode 4 ⟨0b00000000000000000000_0000_00000110, 2, 0, 0, 0⟩ = .ok (.clkrd 2) := by decide
theorem test_decode_send : decode 4 ⟨0b00000000000000000000_0011_00010000, 5, 6, 0, 0⟩ = .ok (.send 3 5 6) := by decide
theorem test_decode_txabort : decode 4 ⟨0b00000000000000000000_0010_00010001, 0, 0, 0, 0⟩ = .ok (.txabort 2) := by decide
theorem test_decode_txbusy : decode 4 ⟨0b00000000000000000000_0001_00010010, 0, 0, 0, 0⟩ = .ok (.txbusy 1) := by decide
theorem test_decode_recv : decode 4 ⟨0b00000000000000000000_0001_00100000, 5, 6, 0, 0⟩ = .ok (.recv 1 5 6) := by decide
theorem test_decode_rxabort : decode 4 ⟨0b00000000000000000000_0011_00100001, 0, 0, 0, 0⟩ = .ok (.rxabort 3) := by decide
theorem test_decode_rxbusy : decode 16 ⟨0b00000000000000000000_1111_00100010, 0, 0, 0, 0⟩ = .ok (.rxbusy 15) := by decide
theorem test_decode_rxstat : decode 4 ⟨0b00000000000000000000_0000_00100011, 0, 0, 0, 0⟩ = .ok (.rxstat 0) := by decide
theorem test_decode_poll : decode 4 ⟨0b00000000000000000000_0011_00110000, 5, 6, 0, 0⟩ = .ok (.poll 3 5 6) := by decide

/-- EN1 to EN8 of 95_test_vectors.md. -/
theorem test_decode_illegal_words :
    decode 4 ⟨0x00000000, 0, 0, 0, 0⟩ = .error .unknownOpcode ∧ decode 4 ⟨0x00000007, 0, 0, 0, 0⟩ = .error .unknownOpcode ∧
    decode 4 ⟨0x000000FF, 0, 0, 0, 0⟩ = .error .unknownOpcode ∧ decode 4 ⟨0x00000013, 0, 0, 0, 0⟩ = .error .unknownOpcode ∧
    decode 4 ⟨0x00000101, 0, 0, 0, 0⟩ = .error .clockChannel ∧ decode 4 ⟨0x00001001, 0, 0, 0, 0⟩ = .error .reservedBits ∧
    decode 4 ⟨0x80000030, 0, 0, 0, 0⟩ = .error .reservedBits ∧ decode 4 ⟨0x00000430, 0, 0, 0, 0⟩ = .error .noSuchChannel := by
  decide

theorem test_encode_poll : encode (.poll 3 5 6) = ⟨0x00000330, 5, 6, 0, 0⟩ := by decide
theorem test_table_word_send : decodeTableWord 32 0x00000210 = some (.send 2 0 0) := by decide
theorem test_table_word_operands : decodeTableWord 96 0x000000090000200000000020 = some (.recv 0 0x2000 9) := by decide

/-! ## Vectors of 95_test_vectors.md, each about one step -/

/-- CK2. -/
theorem test_tick_carries : (takeTick (clocked 7 995000000 10)).clk = ⟨8, 0, 12⟩ := by decide
/-- CK3. -/
theorem test_tick_wraps :
    (takeTick (clocked 0xFFFFFFFF 999000000 0xFFFFFFFE)).clk = ⟨0, 4000000, 0⟩ := by decide
/-- CK7, first micro-step, run by `step` as the first instruction after reset. -/
theorem test_now_starts :
    (after (step (State.reset.withFetchWord 32 0x00000001))).micro = some (.reading .now (.sec 0)) := by decide
/-- CK8: the second GEN read of the disturbed attempt. -/
theorem test_now_retries :
    (microStep (clocked 8 5000000 14) (.reading .now (.gen2 12 8 5000000 none))).micro = some (.reading .now .gen1) := by
  decide
/-- CK11: the accepted read of HRNOW with its carry. -/
theorem test_hrnow_carries :
    (microStep (clocked 3 999000000 4) (.reading .hrnow (.gen2 4 3 999000000 (some 4999999)))).resp =
      some ⟨.ok, 4, 3999999, 0⟩ := by decide
/-- CK13. -/
theorem test_hrnow_without_counter :
    (microStep (noHr (clocked 8 0 12)) (.reading .hrnow (.nsec 12 8))).micro =
      some (.reading .hrnow (.gen2 12 8 0 none)) := by decide
/-- CK16. -/
theorem test_delta_across_the_wrap :
    (after (exec (.delta 2 0 0xFFFFFFFF 999999999) State.reset)).resp = some ⟨.ok, 2, 1, 0⟩ := by decide
/-- CK18. -/
theorem test_delta_of_an_earlier_time :
    (after (exec (.delta 5 100 5 200) State.reset)).resp = some ⟨.ok, 0xFFFFFFFF, 999999900, 0⟩ := by decide
/-- CK23. -/
theorem test_cmp_is_not_wrap_aware :
    (after (exec (.cmp 0 0 0xFFFFFFFF 999999999) State.reset)).resp = some ⟨.ok, 0, 0, 0⟩ := by decide
/-- CK24. -/
theorem test_cmp_illegal : (after (exec (.cmp 1 1000000000 0 0) State.reset)).resp = some ⟨.illegal, 0, 0, 0⟩ := by decide
/-- CK26. -/
theorem test_norm_carries_four :
    (after (exec (.norm 0xFFFFFFFE 0xFFFFFFFF) State.reset)).resp = some ⟨.ok, 2, 294967295, 0⟩ := by decide
/-- CK5. -/
theorem test_clkrd_gen : (after (exec (.clkrd 2) (clocked 8 0 12))).resp = some ⟨.ok, 12, 0, 0⟩ := by decide
/-- EN12. -/
theorem test_clkrd_selector_256 : (after (exec (.clkrd 0x100) State.reset)).resp = some ⟨.illegal, 0, 0, 0⟩ := by decide
/-- P1 step 1. -/
theorem test_send_latches :
    ((after (exec (.send 3 0x2000 2) (withMem memP1))).tx 3).ft[1] = ⟨0x3100, 1⟩ ∧
    ((after (exec (.send 3 0x2000 2) (withMem memP1))).tx 3).curRem = 2 := by decide
/-- TX2. -/
theorem test_send_empty_while_draining :
    (after (exec (.send 1 0x2000 0) (chan1 txOne RxSide.zero [] [] []))).resp = some ⟨.ok, 0, 0, 0⟩ := by decide
/-- TX17. -/
theorem test_txabort_clears :
    ((after (exec (.txabort 1) (chan1 txOne RxSide.zero [] [] []))).tx 1) = TxSide.zero := by decide
/-- TX15. -/
theorem test_txbusy_line_not_ready :
    (after (exec (.txbusy 1) (chan1 TxSide.zero RxSide.zero [false] [] []))).resp = some ⟨.ok, 1, 0, 0⟩ := by decide
/-- RX2. -/
theorem test_recv_over_capacity :
    (after (exec (.recv 1 0x1000 65529) State.reset)).resp = some ⟨.rejected, 0, 0, 0⟩ := by decide
/-- RX3: the last step of an accepted RECV. -/
theorem test_recv_arms :
    (microStep State.reset (.arming 1 0x1000 1 ⟨4, 7⟩)).rx 1 = ⟨.armed, 0x1000, 1, 0, ⟨4, 7⟩, .none, 0⟩ := by decide
/-- RX15. -/
theorem test_rxabort_of_nothing :
    ((after (exec (.rxabort 1) (chan1 TxSide.zero (slot 9 0 ⟨0, 0⟩) [] [] []))).rx 1).kind = .data := by decide
/-- RX19. -/
theorem test_rxbusy_armed :
    (after (exec (.rxbusy 1) (chan1 TxSide.zero (slot 9 0 ⟨0, 0⟩) [] [] []))).resp = some ⟨.ok, 1, 0, 0⟩ := by decide
/-- RX17's slot, read. -/
theorem test_rxstat_data :
    (after (exec (.rxstat 1) (chan1 TxSide.zero ⟨.unarmed, 0x1000, 9, 7, ⟨0, 0⟩, .data, 7⟩ [] [] []))).resp =
      some ⟨.ok, 1, 7, 0⟩ := by decide
/-- PL2: a byte out, a byte in, both ends of the channel done. -/
theorem test_poll_both_halves :
    (after (exec (.poll 1 0 5000000) (chan1 { txOne with curRem := 1 } (slot 9 8 ⟨0, 0⟩) [true] [true] [(0x41, false)]))).log 1
      = [0x48] ∧
    ((after (exec (.poll 1 0 5000000) (chan1 { txOne with curRem := 1 } (slot 9 8 ⟨0, 0⟩) [true] [true] [(0x41, false)]))).rx 1).len
      = 9 := by decide
/-- RX10: the silence equals the timeout. -/
theorem test_poll_idle_timeout :
    ((after (exec (.poll 1 0 12000000) (chan1 TxSide.zero (slot 32 5 ⟨0, 10000000⟩) [] [false] []))).rx 1).len = 5 := by decide
/-- R81: a POLL stuck on its store has sent its byte. -/
theorem test_poll_stuck_keeps_the_byte :
    (after (exec (.poll 1 0 0) (denying .write 0x1000 0x1000 (chan1 txOne (slot 9 0 ⟨0, 0⟩) [true] [true] [(0x41, false)])))).log 1
      = [0x48] := by decide
/-- R118. -/
theorem test_asm_clkrd : Instr.asm (.clkrd 2) = "CLKRD GEN" := by decide

/-! ## Witnesses: concrete data that meet the hypotheses of each statement -/

theorem witness_DecodeEncodeRoundTrip : Instr.wf 4 (.poll 3 0xFFFFFFFF 0xFFFFFFFF) = true := by decide

theorem witness_DecodedWordIsTheEncodedWord : decode 16 ⟨0x00000F22, 1, 2, 3, 4⟩ = .ok (.rxbusy 15) := by decide

theorem witness_UnusedOperandWordsAreIgnored :
    decode 4 ⟨0x00000020, 5, 6, 7, 8⟩ = .ok (.recv 0 5 6) ∧ decode 4 ⟨0x00000020, 5, 6, 9, 9⟩ = .ok (.recv 0 5 6) ∧
    (Command.operands ⟨0x00000020, 5, 6, 9, 9⟩).take (Instr.recv 0 5 6).op.arity =
      (Command.operands ⟨0x00000020, 5, 6, 7, 8⟩).take (Instr.recv 0 5 6).op.arity := by decide

theorem witness_StepRunsTheDecodedInstruction :
    ∃ (s : State) (k : Command), s.free ∧ s.turns.queue = [.host] ∧ s.host.queue = [.command k] ∧
      decode s.params.nchan k = .ok (.rxstat 3) :=
  ⟨presenting ⟨0x00000323, 0, 0, 0, 0⟩ State.reset, ⟨0x00000323, 0, 0, 0, 0⟩, ⟨rfl, rfl⟩, rfl, rfl, by decide⟩

theorem witness_StepAnswersIllegalWords :
    ∃ (s : State) (k : Command), s.free ∧ s.turns.queue = [.host] ∧ s.host.queue = [.command k] ∧
      decode s.params.nchan k = .error .noSuchChannel :=
  ⟨presenting ⟨0x00000430, 0, 0, 0, 0⟩ State.reset, ⟨0x00000430, 0, 0, 0, 0⟩, ⟨rfl, rfl⟩, rfl, rfl, by decide⟩

theorem witness_StepTakesTheTick : ∃ s : State, s.turns.queue = [.tick] :=
  ⟨{ State.reset with turns := ⟨[.tick], 0⟩ }, rfl⟩

theorem witness_HostTurnContinuesTheCommand :
    ∃ s : State, s.stuck = none ∧ s.micro = some (.reading .now .gen1) ∧ s.turns.queue = [.host] :=
  ⟨{ State.reset with turns := ⟨[.host], 0⟩, micro := some (.reading .now .gen1) }, rfl, rfl, rfl⟩

theorem witness_StuckCommandHasNoStep :
    ∃ s t : State, s.stuck = some ⟨.read, 5⟩ ∧ s.turns.queue = [.host] ∧ t.stuck = some ⟨.read, 5⟩ ∧ t.turns.queue = [.tick] :=
  ⟨{ State.reset with turns := ⟨[.host], 0⟩, stuck := some ⟨.read, 5⟩ },
    { State.reset with turns := ⟨[.tick], 0⟩, stuck := some ⟨.read, 5⟩ }, rfl, rfl, rfl, rfl⟩

theorem witness_HostStoreIsSeen :
    ∃ s : State, memWf s.mem = true ∧ s.free ∧ s.turns.queue = [.host] ∧ s.host.queue = [.store 0xFFFFFFFF 9] :=
  ⟨{ withMem memP1 with turns := ⟨[.host], 0⟩, host := ⟨[.store 0xFFFFFFFF 9], 0⟩ }, by decide, ⟨rfl, rfl⟩, rfl, rfl⟩

theorem witness_TickAddsExactlyOnePeriod :
    (clocked 0xFFFFFFFF 999999999 0).params.wf = true ∧ (clocked 0xFFFFFFFF 999999999 0).clk.nsec.toNat < nsPerS := by decide

theorem witness_ClockAfterTicks :
    (clocked 0xFFFFFFFF 999000000 0).params.wf = true ∧ (clocked 0xFFFFFFFF 999000000 0).clk.nsec.toNat < nsPerS := by decide

theorem witness_OnlyTheTickWritesTheClock : ∃ s t : State, hostTurn s = .next t :=
  ⟨{ clocked 8 0 12 with micro := some (.reading .now .gen1) }, _, rfl⟩

theorem witness_NormalizeLoopAgreesWithItsClosedForm : 8589934591 < 2 ^ 33 := by decide

theorem witness_DeltaSubtractsModuloTheWrapPeriod :
    (tsValid ⟨2, 0⟩ ∧ tsValid ⟨0xFFFFFFFF, 999999999⟩) ∧ ¬ (tsValid ⟨0, 0⟩ ∧ tsValid ⟨0, 1000000000⟩) := by decide

theorem witness_DeltaUndoesAddition : tsValid ⟨0xFFFFFFFF, 999999999⟩ ∧ tsValid ⟨0xFFFFFFFF, 999999999⟩ := by decide

theorem witness_CompareIsATotalOrder :
    tscmp ⟨0, 5⟩ ⟨1, 0⟩ ≠ .gt ∧ tscmp ⟨1, 0⟩ ⟨1, 0⟩ ≠ .gt := by decide

theorem witness_CmpComparesTimestampValues :
    (tsValid ⟨0, 999999999⟩ ∧ tsValid ⟨1, 0⟩) ∧ ¬ (tsValid ⟨0, 1000000000⟩ ∧ tsValid ⟨0, 0⟩) := by decide

theorem witness_ClkrdReadsOneClockRegister : 3 ≤ (3 : Word).toNat ∧ 3 ≤ (0xFFFFFFFF : Word).toNat := by decide

theorem witness_NowReturnsTheClockWhenUndisturbed : (clocked 8 0 12).clk.gen.toNat % 2 = 0 := by decide

theorem witness_NowIsCoherentOrRetries :
    (clocked 8 0 0xFFFFFFFE).clk.gen.toNat % 2 = 0 ∧ 0 + 0 + 0 < 2 ^ 31 ∧ (1 + 0 + 2147483646 < 2 ^ 31 ∧ 0 < 1 + 0 + 2147483646) := by
  decide

theorem witness_HrnowRefinesTheClockWhenUndisturbed :
    ((clocked 8 0 12).params.wf = true ∧ (clocked 8 0 12).clk.nsec.toNat < nsPerS ∧ (clocked 8 0 12).clk.gen.toNat % 2 = 0 ∧
      (clocked 8 0 12).params.hrPresent = true) ∧
    ((noHr (clocked 8 0 12)).params.wf = true ∧ (noHr (clocked 8 0 12)).params.hrPresent = false) ∧
    ({ clocked 8 0 12 with subTicks := ⟨[1250000], 0⟩ } : State).subTicks.queue = [1250000] := by decide

theorem witness_HrnowRetriesAfterATick :
    (clocked 8 0 12).params.hrPresent = true ∧ (clocked 8 0 12).clk.gen.toNat % 2 = 0 ∧ 0 < 0 + 0 + 0 + 1 ∧
      0 + 0 + 0 + 1 < 2 ^ 31 := by decide

theorem witness_FirstNonemptyIsTheSmallest :
    firstNonempty txMore 1 = some 1 ∧ firstNonempty txMore 2 = none := by decide

theorem witness_DescriptorsAreReadLittleEndian :
    ∀ k < 8 * 2, memOk (withMem memP1).params ⟨.read, 0x2000 + BitVec.ofNat 32 k⟩ = true := by decide

theorem witness_SendIsStuckOnARefusedDescriptorByte :
    ∃ s : State, (s.tx 1).state = .idle ∧ 1 ≤ (1 : Word).toNat ∧ (1 : Word).toNat ≤ fragMax ∧ 7 < 8 * (1 : Word).toNat ∧
      (∀ j < 7, memOk s.params ⟨.read, 0x2000 + BitVec.ofNat 32 j⟩ = true) ∧
      memOk s.params ⟨.read, 0x2000 + BitVec.ofNat 32 7⟩ = false :=
  ⟨denying .read 0x2007 0x2007 (withMem memP1), by decide⟩

theorem witness_SendEmptyOrRejectedChangesNothing :
    ((chan1 txOne RxSide.zero [] [] []).tx 1).state = .draining ∧ fragMax < (33 : Word).toNat ∧
    (∃ fs, loadFrags (withMem [(0x2004, 0xF8), (0x2005, 0xFF), (0x200C, 1)]) 0x2000 2 = .ok fs ∧ byteMax < totalLen fs) ∧
    ((withMem []).tx 1).state = .idle :=
  ⟨by decide, by decide, ⟨[⟨0, 65528⟩, ⟨0, 1⟩], by decide, by decide⟩, by decide⟩

theorem witness_SendLatchesTheList :
    (((withMem memP1).tx 3).state = .idle ∧ 1 ≤ (2 : Word).toNat ∧ (2 : Word).toNat ≤ fragMax ∧
      loadFrags (withMem memP1) 0x2000 (2 : Word).toNat = .ok [⟨0x3000, 2⟩, ⟨0x3100, 1⟩] ∧
      totalLen [⟨0x3000, 2⟩, ⟨0x3100, 1⟩] ≤ byteMax ∧ totalLen [⟨0x3000, 2⟩, ⟨0x3100, 1⟩] ≠ 0) ∧
    (loadFrags (withMem memP1) 0x4000 (32 : Word).toNat = .ok (List.replicate 32 ⟨0, 0⟩) ∧
      totalLen (List.replicate 32 ⟨0, 0⟩) = 0 ∧ (32 : Word).toNat ≤ fragMax) := by decide

theorem txOne_good : txOne.good := ⟨by decide, by decide, fun _ => ⟨by decide, by decide⟩⟩
theorem txMore_good : txMore.good := ⟨by decide, by decide, fun _ => ⟨by decide, by decide⟩⟩
theorem txLast_good : txLast.good := ⟨by decide, by decide, fun _ => ⟨by decide, by decide⟩⟩

/-- The three ways a byte can go: more of the fragment, the next fragment, the end of the list. -/
theorem witness_PollSendsTheNextByte :
    (∀ t ∈ [txOne, txMore, txLast], t.good) ∧
    (∀ t ∈ [txOne, txMore, txLast], ((chan1 t RxSide.zero [true] [] []).tx 1).state = .draining ∧
      (hwTxReady (chan1 t RxSide.zero [true] [] []) 1).1 = true ∧
      memOk (chan1 t RxSide.zero [true] [] []).params ⟨.read, t.curAddr⟩ = true) ∧
    txOne.curRem ≠ 1 ∧ (txMore.curRem = 1 ∧ firstNonempty txMore (txMore.fidx.toNat + 1) = some 1) ∧
    (txLast.curRem = 1 ∧ firstNonempty txLast (txLast.fidx.toNat + 1) = none) := by
  refine ⟨?_, by decide, by decide, by decide, by decide⟩
  intro t ht
  simp only [List.mem_cons, List.not_mem_nil, or_false] at ht
  rcases ht with rfl | rfl | rfl
  · exact txOne_good
  · exact txMore_good
  · exact txLast_good

theorem witness_PollSendsNothingWhenIdleOrNotReady :
    (999999999 : Word).toNat < nsPerS ∧ ((chan1 TxSide.zero RxSide.zero [true] [] []).tx 1).state = .idle ∧
    (hwTxReady (chan1 txOne RxSide.zero [false] [] []) 1).1 = false ∧
    ((chan1 txOne RxSide.zero [false] [] []).rx 1).state ≠ .armed := by decide

theorem witness_MessageIsSentWholeAndInOrder :
    txOne.good ∧ ((chan1 txOne RxSide.zero [true, false, true] [] []).rx 1).state = .unarmed ∧
    ((chan1 txOne RxSide.zero [true, false, true] [] []).line 1).txReady.queue = [true, false, true] ++ [] ∧
    [true, false, true].count true ≤ (pendingAddrs ((chan1 txOne RxSide.zero [true, false, true] [] []).tx 1)).length ∧
    (∀ a ∈ pendingAddrs ((chan1 txOne RxSide.zero [true, false, true] [] []).tx 1),
      memOk (chan1 txOne RxSide.zero [true, false, true] [] []).params ⟨.read, a⟩ = true) ∧
    ([⟨0, 0⟩, ⟨0, 5⟩, ⟨1, 0⟩] : List Timestamp).length = [true, false, true].length ∧
    (∀ u ∈ ([⟨0, 0⟩, ⟨0, 5⟩, ⟨1, 0⟩] : List Timestamp), tsValid u) :=
  ⟨txOne_good, by decide, by decide, by decide, fun _ _ => rfl, by decide, by decide⟩

theorem witness_RecvRejectionsChangeNothing :
    ((chan1 TxSide.zero (slot 9 0 ⟨0, 0⟩) [] [] []).rx 1).state = .armed ∧ (0 : Word).toNat = 0 ∧ 65528 < (65529 : Word).toNat := by
  decide

theorem witness_RecvArmsTheSlot :
    ((clocked 4 0 8).params.wf = true ∧ (clocked 4 0 8).clk.nsec.toNat < nsPerS ∧ (clocked 4 0 8).clk.gen.toNat % 2 = 0 ∧
      ((clocked 4 0 8).rx 1).state = .unarmed ∧ (clocked 4 0 8).params.hrPresent = true) ∧
    (noHr (clocked 4 0 8)).params.hrPresent = false ∧ capGood 1 ∧ capGood 65528 :=
  ⟨by decide, by decide, ⟨by decide, by decide⟩, ⟨by simp, by simp [byteMax]⟩⟩

theorem slot_good {cap idx : Word} {last : Timestamp} (h1 : capGood cap) (h2 : idx.toNat < cap.toNat) (h3 : tsValid last) :
    (slot cap idx last).good :=
  ⟨h3, by simp [slot], by simp [slot], fun _ => ⟨h1, h2, rfl⟩⟩

theorem rxZero_good : RxSide.zero.good :=
  ⟨by decide, by simp [RxSide.zero], by simp [RxSide.zero], by simp [RxSide.zero]⟩

/-- The three endings of a stored byte: full, timeout {0, 0}, still armed. -/
theorem witness_PollStoresTheByte :
    ((slot 9 8 ⟨0, 0⟩).good ∧ (slot 9 0 ⟨0, 0⟩).good) ∧
    (let s := chan1 TxSide.zero (slot 9 8 ⟨0, 0⟩) [] [true] [(0x41, false)]
     memWf s.mem = true ∧ (hwRxReady s 1).1 = true ∧ (hwRead (hwRxReady s 1).2 1).1 = (0x41, false) ∧
      memOk s.params ⟨.write, (s.rx 1).buf + (s.rx 1).idx⟩ = true ∧ (s.tx 1).state ≠ .draining ∧
      (s.rx 1).idx + 1 = (s.rx 1).cap) ∧
    (let s := chan1 TxSide.zero (slot 9 0 ⟨0, 0⟩) [] [true] [(0x41, false)]
     memWf s.mem = true ∧ (hwRxReady s 1).1 = true ∧ (hwRead (hwRxReady s 1).2 1).1 = (0x41, false) ∧
      memOk s.params ⟨.write, (s.rx 1).buf + (s.rx 1).idx⟩ = true ∧ (s.tx 1).state ≠ .draining ∧
      (s.rx 1).idx + 1 ≠ (s.rx 1).cap) ∧
    State.reset.timeout 1 ≠ ⟨0, 0⟩ ∧
    State.timeout { State.reset with params := { Params.source with timeout := Vector.replicate 16 ⟨0, 0⟩ } } 1 = ⟨0, 0⟩ :=
  ⟨⟨slot_good ⟨by decide, by decide⟩ (by decide) (by decide), slot_good ⟨by decide, by decide⟩ (by decide) (by decide)⟩,
    by decide, by decide, by decide, by decide⟩

/-- The three ways no byte is stored, and the silence just at and just below the timeout. -/
theorem witness_SilenceEndsTheReception :
    (slot 32 5 ⟨0, 10000000⟩).good ∧ RxSide.zero.good ∧ State.reset.params.wf = true ∧
    (hwRxReady (chan1 TxSide.zero (slot 32 5 ⟨0, 10000000⟩) [] [false] []) 1).1 = false ∧
    (hwRead (hwRxReady (chan1 TxSide.zero (slot 32 5 ⟨0, 10000000⟩) [] [true] [(0x33, true)]) 1).2 1).1.2 = true ∧
    (State.reset.rx 1).state = .unarmed ∧
    tsValue (State.reset.timeout 1) ≤ (tsValue ⟨0, 12000000⟩ + wrapPeriod - tsValue ⟨0, 10000000⟩) % wrapPeriod ∧
    ¬ tsValue (State.reset.timeout 1) ≤ (tsValue ⟨0, 11999999⟩ + wrapPeriod - tsValue ⟨0, 10000000⟩) % wrapPeriod :=
  ⟨slot_good ⟨by decide, by decide⟩ (by decide) (by decide),
    rxZero_good, by decide, by decide, by decide, by decide,
    by decide, by decide⟩

theorem witness_RxabortCompletesTheSlot :
    ((chan1 TxSide.zero (slot 9 3 ⟨0, 0⟩) [] [] []).rx 1).state = .armed ∧ (State.reset.rx 1).state = .unarmed := by decide

theorem witness_RxstatReturnsTheDescriptor :
    (State.reset.rx 1).kind = .none ∧ ((chan1 TxSide.zero (completeRx (slot 9 3 ⟨0, 0⟩) 3) [] [] []).rx 1).kind = .data ∧
    ((chan1 TxSide.zero { RxSide.zero with kind := .lineBreak } [] [] []).rx 1).kind = .lineBreak := by decide

/-- The state of the two frame witnesses: capacity `cap`, two bytes on the line, then silence. -/
def framing (cap : Word) (readies : List Bool) : State :=
  chan1 TxSide.zero (slot cap 0 ⟨0, 0⟩) [] readies [(0x31, false), (0x32, false)]

theorem witness_FullBufferEndsTheFrame :
    (∀ u ∈ ([⟨0, 0⟩, ⟨7, 1⟩] : List Timestamp), tsValid u) ∧ ((framing 2 [true, true]).tx 1).state = .idle ∧
    memWf (framing 2 [true, true]).mem = true ∧ ((framing 2 [true, true]).rx 1).state = .armed ∧
    ((framing 2 [true, true]).rx 1).idx = 0 ∧ ((framing 2 [true, true]).rx 1).cap.toNat = ([0x31, 0x32] : List Byte).length ∧
    capGood 2 ∧ (framing 2 [true, true]).timeout 1 ≠ ⟨0, 0⟩ ∧
    ((framing 2 [true, true]).line 1).rxReady.queue = List.replicate 2 true ++ [] ∧
    ((framing 2 [true, true]).line 1).read.queue = ([0x31, 0x32] : List Byte).map (fun b => (b, false)) ++ [] ∧
    (∀ k < 2, memOk (framing 2 [true, true]).params ⟨.write, 0x1000 + BitVec.ofNat 32 k⟩ = true) :=
  ⟨by decide, by decide, by decide, by decide, by decide, by decide, ⟨by decide, by decide⟩, by decide, by decide, by decide,
    by decide⟩

theorem witness_SilenceEndsAShortFrame :
    (framing 32 [true, true, false]).params.wf = true ∧ (∀ u ∈ ([⟨0, 0⟩] : List Timestamp), tsValid u) ∧ tsValid ⟨0, 5⟩ ∧
    tsValid ⟨0, 2000005⟩ ∧ ([⟨0, 0⟩] : List Timestamp).length + 1 = ([0x31, 0x32] : List Byte).length ∧
    ((framing 32 [true, true, false]).tx 1).state = .idle ∧ memWf (framing 32 [true, true, false]).mem = true ∧
    ((framing 32 [true, true, false]).rx 1).state = .armed ∧ ((framing 32 [true, true, false]).rx 1).idx = 0 ∧
    2 < ((framing 32 [true, true, false]).rx 1).cap.toNat ∧ capGood 32 ∧
    (framing 32 [true, true, false]).timeout 1 ≠ ⟨0, 0⟩ ∧
    ((framing 32 [true, true, false]).line 1).rxReady.queue = List.replicate 2 true ++ false :: [] ∧
    ((framing 32 [true, true, false]).line 1).read.queue = ([0x31, 0x32] : List Byte).map (fun b => (b, false)) ++ [] ∧
    (∀ k < 2, memOk (framing 32 [true, true, false]).params ⟨.write, 0x1000 + BitVec.ofNat 32 k⟩ = true) ∧
    tsValue ((framing 32 [true, true, false]).timeout 1) ≤
      (tsValue ⟨0, 2000005⟩ + wrapPeriod - tsValue ⟨0, 5⟩) % wrapPeriod :=
  ⟨by decide, by decide, by decide, by decide, by decide, by decide, by decide, by decide, by decide, by decide,
    ⟨by decide, by decide⟩, by decide, by decide, by decide, by decide, by decide⟩

theorem witness_LineBreakIsNeverProduced :
    ∃ s t : State, step s = .next t ∧ ∀ c, (s.rx c).kind ≠ .lineBreak :=
  ⟨{ State.reset with turns := ⟨[.tick], 0⟩ }, _, rfl, by decide⟩

theorem witness_PollCompletes :
    (999999999 : Word).toNat < nsPerS ∧ nsPerS ≤ (1000000000 : Word).toNat ∧
    memOk (chan1 txOne (slot 9 8 ⟨0, 0⟩) [true] [true] [(0x41, false)]).params ⟨.read, 0x3000⟩ = true ∧
    memOk (chan1 txOne (slot 9 8 ⟨0, 0⟩) [true] [true] [(0x41, false)]).params ⟨.write, 0x1008⟩ = true := by decide

theorem witness_PollIsStuckOnARefusedAccess :
    (let s := denying .read 0x3000 0x3000 (chan1 txOne RxSide.zero [true] [] [])
     (s.tx 1).state = .draining ∧ (hwTxReady s 1).1 = true ∧ memOk s.params ⟨.read, (s.tx 1).curAddr⟩ = false) ∧
    (let s := denying .write 0x1000 0x1000 (chan1 txOne (slot 9 0 ⟨0, 0⟩) [true] [true] [(0x41, false)])
     (s.rx 1).state = .armed ∧ (hwRxReady s 1).1 = true ∧ (hwRead (hwRxReady s 1).2 1).1.2 = false ∧
     memOk s.params ⟨.read, (s.tx 1).curAddr⟩ = true ∧ memOk s.params ⟨.write, (s.rx 1).buf + (s.rx 1).idx⟩ = false ∧
     (s.tx 1).state = .draining ∧ (hwTxReady s 1).1 = true) := by decide

theorem witness_PollDoesBoundedWork :
    ∃ s t : State, memWf s.mem = true ∧ exec (.poll 1 0 0) s = .next t ∧ (hwRxReady s 1).1 = false :=
  ⟨chan1 txOne (slot 9 0 ⟨0, 0⟩) [true] [false] [], _, by decide, rfl, by decide⟩

theorem witness_PollDependsOnItsChannelOnly :
    ∃ s1 s2 : State, s1 ≠ s2 ∧ s1.params = s2.params ∧ s1.chan 1 = s2.chan 1 ∧ s1.log 1 = s2.log 1 ∧ s1.line 1 = s2.line 1 ∧
      s1.mem = s2.mem :=
  ⟨clocked 8 0 12, State.reset.setTx 2 txOne, by decide, rfl, by decide, by decide, by decide, rfl⟩

theorem witness_TheArmingTimeIsNeverRead :
    ((chan1 TxSide.zero (slot 9 0 ⟨4, 7⟩) [] [true] [(0x41, false)]).rx 1).idx = 0 := by decide

theorem witness_InvariantHoldsAtReset : Params.source.wf = true ∧ ({ Params.source with nchan := 16 } : Params).wf = true := by
  decide

/-- A state with a TICK due that meets the invariant, and its step. -/
theorem witness_StepKeepsTheInvariant : ∃ s t : State, s.Inv ∧ step s = .next t := by
  refine ⟨{ clocked 0xFFFFFFFF 999999999 0xFFFFFFFE with turns := ⟨[.tick], 0⟩ }, _, ?_, rfl⟩
  refine ⟨by decide, by decide, by decide, rfl, ?_, ?_, ?_, ?_, ?_, ?_⟩
  · intro c
    have h : State.tx { clocked 0xFFFFFFFF 999999999 0xFFFFFFFE with turns := ⟨[.tick], 0⟩ } c = TxSide.zero := by
      revert c; decide
    rw [h]
    exact ⟨by decide, by decide, fun h => nomatch h⟩
  · intro c
    have h : State.rx { clocked 0xFFFFFFFF 999999999 0xFFFFFFFE with turns := ⟨[.tick], 0⟩ } c = RxSide.zero := by
      revert c; decide
    rw [h]
    exact rxZero_good
  · intro c _
    constructor
    · unfold Channel.untouched
      revert c
      decide
    · revert c
      decide
  · intro m h
    cases h
  · intro a h
    cases h
  · intro r h
    cases h

theorem witness_EveryCommandReturnsGoesOnOrIsStuck : State.reset.free := ⟨rfl, rfl⟩

theorem witness_RejectedOrIllegalChangesNothing :
    ∃ (s t : State) (r : Response), s.free ∧ exec (.recv 1 0 0) s = .next t ∧ t.resp = some r ∧ r.st ≠ .ok :=
  ⟨State.reset, _, _, ⟨rfl, rfl⟩, rfl, rfl, by decide⟩

theorem witness_CausesOfRejectedAndIllegal :
    (∃ (s t : State) (r : Response), exec (.send 1 0 33) s = .next t ∧ t.resp = some r ∧ r.st = .rejected) ∧
    (∃ (s t : State) (r : Response), exec (.clkrd 3) s = .next t ∧ t.resp = some r ∧ r.st = .illegal) :=
  ⟨⟨State.reset, _, _, rfl, rfl, rfl⟩, ⟨State.reset, _, _, rfl, rfl, rfl⟩⟩

theorem witness_AccessMatrixFrames :
    (∃ t, exec .now State.reset = .next t) ∧ (∃ t, exec (.send 1 0x2000 1) (withMem memP1) = .next t) ∧
    (∃ t, exec (.txabort 1) State.reset = .next t) ∧ (∃ t, exec (.txbusy 1) State.reset = .next t) ∧
    (∃ t, exec (.recv 1 0x1000 9) State.reset = .next t) ∧ (∃ t, exec (.rxabort 1) State.reset = .next t) ∧
    (∃ t, exec (.rxbusy 1) State.reset = .next t) ∧ (∃ t, exec (.rxstat 1) State.reset = .next t) ∧
    (∃ t, exec (.poll 1 0 0) State.reset = .next t) :=
  ⟨⟨_, rfl⟩, ⟨_, rfl⟩, ⟨_, rfl⟩, ⟨_, rfl⟩, ⟨_, rfl⟩, ⟨_, rfl⟩, ⟨_, rfl⟩, ⟨_, rfl⟩, ⟨_, rfl⟩⟩

theorem witness_MicroStepFrame :
    ∃ (s : State) (m m' : Micro), m = .reading .hrnow (.sub 0 0 0) ∧ m' = .arming 1 0x1000 9 ⟨0, 0⟩ ∧
      (microStep s m).micro ≠ s.micro :=
  ⟨State.reset, _, _, rfl, rfl, fun h => nomatch h⟩

end Sys2Proof.Tests
end

section
/-! Whose turn `step` takes (R339), and O9: a host turn in the middle of a command. -/

namespace Sys2Proof.Machine

/-- A queued turn is the one `step` gives, on the state with that turn used up (R20, R339). -/
theorem step_of_turn_queue {s : State} {t : Turn} {ts : List Turn} (h : s.turns.queue = t :: ts) :
    step s = takeTurn t { s with turns := ⟨ts, s.turns.taken + 1⟩ } := by
  have hnext : nextTurn s = (t, { s with turns := ⟨ts, s.turns.taken + 1⟩ }) := by
    simp only [nextTurn, draw_of_queue Config.freeTurn s.turns t ts h]
  rw [step_eq, hnext]

/-- The middle case of `hostTurn_cases` for the micro-step in progress (R19, R48). -/
theorem hostTurn_of_micro {s : State} {m : Micro} (hstuck : s.stuck = none) (hmicro : s.micro = some m) :
    hostTurn s = .next (microStep s m) := by
  obtain ⟨a, ha, -⟩ | ⟨-, m', hm', hturn⟩ | ⟨-, hnone, -⟩ := hostTurn_cases s
  · exact absurd (hstuck.symm.trans ha) nofun
  · obtain rfl : m = m' := Option.some.inj (hmicro.symm.trans hm')
    exact hturn
  · exact absurd (hmicro.symm.trans hnone) nofun

/-- Settles O9: the queued turn is the host's, and taking it leaves the command in progress as it was. -/
theorem hostTurnContinuesTheCommand : Obligations.HostTurnContinuesTheCommand := by
  intro s ts m hstuck hmicro hqueue
  calc step s
      = hostTurn { s with turns := ⟨ts, s.turns.taken + 1⟩ } := step_of_turn_queue hqueue
    _ = .next (microStep { s with turns := ⟨ts, s.turns.taken + 1⟩ } m) := hostTurn_of_micro hstuck hmicro

end Sys2Proof.Machine
end

section
/-! What every instruction leaves unchanged (R55, R92, R301), what a micro-step leaves unchanged (R156, R159, R250), and the
host's turns: O57, O58, O14, O6. -/

namespace Sys2Proof.Machine

open Sys2Proof

/-! ## Returning an answer -/

/-- `t` is `s` with a response given and no command in progress (R15, R110). -/
def State.Answers (s t : State) : Prop := ∃ r : Response, r.good ∧ t = { s with micro := none, resp := some r }

theorem State.answers_ok (s : State) (r0 r1 : Word) : s.Answers (s.ret .ok r0 r1) :=
  ⟨_, ⟨rfl, fun h => absurd rfl h⟩, rfl⟩

theorem State.answers_zero (s : State) (st : Status) : s.Answers (s.ret st 0 0) :=
  ⟨_, ⟨rfl, fun _ => ⟨rfl, rfl⟩⟩, rfl⟩

/-! ## Inversions of the instructions: every way a command can go -/

theorem execDelta_answers {a b c d : Word} {s t : State} (h : execDelta a b c d s = .next t) : s.Answers t := by
  unfold execDelta at h
  split at h
  · cases h; exact s.answers_ok _ _
  · cases h; exact s.answers_zero _

theorem execCmp_answers {a b c d : Word} {s t : State} (h : execCmp a b c d s = .next t) : s.Answers t := by
  unfold execCmp at h
  split at h
  · cases h; exact s.answers_ok _ _
  · cases h; exact s.answers_zero _

theorem execNorm_answers {sec ns : Word} {s t : State} (h : execNorm sec ns s = .next t) : s.Answers t := by
  cases h; exact s.answers_ok _ _

theorem execClkrd_answers {sel : Word} {s t : State} (h : execClkrd sel s = .next t) : s.Answers t := by
  unfold execClkrd at h
  split at h
  · cases h; exact s.answers_ok _ _
  · cases h; exact s.answers_zero _

theorem execRxbusy_answers {c : Chan} {s t : State} (h : execRxbusy c s = .next t) : s.Answers t := by
  cases h; exact s.answers_ok _ _

theorem execRxstat_answers {c : Chan} {s t : State} (h : execRxstat c s = .next t) : s.Answers t := by
  cases h; exact s.answers_ok _ _

/-- SEND answers without effect, is stuck on a refused descriptor byte, or latches an admissible list (R201, R81). -/
theorem execSend_cases {c : Chan} {desc count : Word} {s t : State} (h : execSend c desc count s = .next t) :
    s.Answers t ∨
    (∃ a, loadFrags s desc count.toNat = .error a ∧ t = s.hang a) ∨
    (∃ fs, (s.tx c).state = .idle ∧ count.toNat ≤ fragMax ∧ loadFrags s desc count.toNat = .ok fs ∧
      totalLen fs ≤ byteMax ∧ t = (s.setTx c (acceptList (s.tx c) count fs)).ret .ok 0 0) := by
  unfold execSend at h
  split at h
  · cases h; exact .inl (s.answers_zero _)
  · cases hstate : (s.tx c).state with
    | draining => simp only [hstate] at h; cases h; exact .inl (s.answers_zero _)
    | idle =>
      simp only [hstate, reduceCtorEq, if_false] at h
      split at h
      · cases h; exact .inl (s.answers_zero _)
      next hcount =>
        cases hload : loadFrags s desc count.toNat with
        | error a => simp only [hload] at h; cases h; exact .inr (.inl ⟨a, rfl, rfl⟩)
        | ok fs =>
          simp only [hload] at h
          split at h
          · cases h; exact .inl (s.answers_zero _)
          next htotal =>
            cases h
            exact .inr (.inr ⟨fs, rfl, Nat.not_lt.mp hcount, rfl, Nat.not_lt.mp htotal, rfl⟩)

/-- RECV answers without effect, or passes its checks and takes the first GEN read of its HRNOW (R250). -/
theorem execRecv_cases {c : Chan} {buf cap : Word} {s t : State} (h : execRecv c buf cap s = .next t) :
    s.Answers t ∨
    ((s.rx c).state = .unarmed ∧ capGood cap ∧ t = readStep s (.recv c buf cap) .gen1) := by
  unfold execRecv at h
  cases hstate : (s.rx c).state with
  | armed => simp only [hstate] at h; cases h; exact .inl (s.answers_zero _)
  | unarmed =>
    simp only [hstate, reduceCtorEq, if_false] at h
    split at h
    · cases h; exact .inl (s.answers_zero _)
    next hcap =>
      cases h
      obtain ⟨hzero, hmax⟩ := not_or.mp hcap
      have hpos : cap.toNat ≠ 0 := fun h0 => hzero (BitVec.eq_of_toNat_eq h0)
      exact .inr ⟨rfl, ⟨Nat.pos_of_ne_zero hpos, Nat.not_lt.mp hmax⟩, rfl⟩

/-- RXABORT completes an armed slot with what it has captured, and does nothing to an unarmed one (R255). -/
theorem execRxabort_cases {c : Chan} {s t : State} (h : execRxabort c s = .next t) :
    s.Answers t ∨
    ((s.rx c).state = .armed ∧ t = (s.setRx c (completeRx (s.rx c) (s.rx c).idx)).ret .ok 0 0) := by
  unfold execRxabort at h
  split at h
  next harmed => cases h; exact .inr ⟨harmed, rfl⟩
  · cases h; exact .inl (s.answers_ok _ _)

/-- POLL answers ILLEGAL without effect, or runs both halves at a valid time (R300, R115). -/
theorem execPoll_cases {c : Chan} {sec ns : Word} {s t : State} (h : execPoll c sec ns s = .next t) :
    s.Answers t ∨ (tsValid ⟨sec, ns⟩ ∧ t = conclude (pollBoth s c ⟨sec, ns⟩)) := by
  unfold execPoll at h
  by_cases hv : ns.toNat < nsPerS
  · rw [tsOperand_of_valid hv] at h
    cases h
    exact .inr ⟨hv, rfl⟩
  · rw [tsOperand_of_invalid (Nat.not_lt.mp hv)] at h
    cases h
    exact .inl (s.answers_zero _)

/-! ## The frame of a channel command -/

/-- From `s` to `t` only channel `c`, its log and its line, the memory, and how the command stands may have changed (R55, R301). -/
structure OnlyChannel (c : Chan) (s t : State) : Prop where
  others   : ∀ d, d ≠ c → t.chan d = s.chan d ∧ t.log d = s.log d ∧ t.line d = s.line d
  params   : t.params = s.params
  clk      : t.clk = s.clk
  turns    : t.turns = s.turns
  host     : t.host = s.host
  subTicks : t.subTicks = s.subTicks

namespace OnlyChannel

theorem refl (c : Chan) (s : State) : OnlyChannel c s s := ⟨fun _ _ => ⟨rfl, rfl, rfl⟩, rfl, rfl, rfl, rfl, rfl⟩

theorem trans {c : Chan} {s t u : State} (h : OnlyChannel c s t) (k : OnlyChannel c t u) : OnlyChannel c s u where
  others d hd :=
    have ⟨hchan, hlog, hline⟩ := h.others d hd
    have ⟨kchan, klog, kline⟩ := k.others d hd
    ⟨kchan.trans hchan, klog.trans hlog, kline.trans hline⟩
  params := k.params.trans h.params
  clk := k.clk.trans h.clk
  turns := k.turns.trans h.turns
  host := k.host.trans h.host
  subTicks := k.subTicks.trans h.subTicks

theorem setTx (s : State) (c : Chan) (x : TxSide) : OnlyChannel c s (s.setTx c x) :=
  ⟨fun d hd => ⟨by rw [setTx_chan, if_neg hd], rfl, rfl⟩, rfl, rfl, rfl, rfl, rfl⟩

theorem setRx (s : State) (c : Chan) (x : RxSide) : OnlyChannel c s (s.setRx c x) :=
  ⟨fun d hd => ⟨by rw [setRx_chan, if_neg hd], rfl, rfl⟩, rfl, rfl, rfl, rfl, rfl⟩

theorem setLine (s : State) (c : Chan) (l : Line) : OnlyChannel c s (s.setLine c l) :=
  ⟨fun d hd => ⟨rfl, rfl, by rw [setLine_line, if_neg hd]⟩, rfl, rfl, rfl, rfl, rfl⟩

theorem hwWrite (s : State) (c : Chan) (b : Byte) : OnlyChannel c s (hwWrite s c b) :=
  ⟨fun d hd => ⟨rfl, by rw [hwWrite_log, if_neg hd], rfl⟩, rfl, rfl, rfl, rfl, rfl⟩

theorem storeByte (c : Chan) (s : State) (a : Word) (b : Byte) : OnlyChannel c s (storeByte s a b) := { refl c s with }

theorem ret (c : Chan) (s : State) (st : Status) (r0 r1 : Word) : OnlyChannel c s (s.ret st r0 r1) := { refl c s with }

theorem hang (c : Chan) (s : State) (a : Access) : OnlyChannel c s (s.hang a) := { refl c s with }

theorem pause (c : Chan) (s : State) (m : Micro) : OnlyChannel c s (s.pause m) := { refl c s with }

theorem of_answers (c : Chan) {s t : State} (h : s.Answers t) : OnlyChannel c s t := by
  obtain ⟨r, -, rfl⟩ := h
  exact { refl c s with }

end OnlyChannel

theorem hwTxReady_only (s : State) (c : Chan) : OnlyChannel c s (hwTxReady s c).2 := .setLine s c _

theorem afterLine_only (s : State) (c : Chan) : OnlyChannel c s (afterLine s c) := by
  have hready : OnlyChannel c s (hwRxReady s c).2 := .setLine s c _
  unfold afterLine
  split
  · exact hready.trans (.setLine _ c _)
  · exact hready

/-- The state a run of effects has reached. -/
def Progress.state : Progress → State
  | .going s => s
  | .hung s _ => s

theorem txStep_only (s : State) (c : Chan) : OnlyChannel c s (txStep s c).state := by
  obtain ⟨-, h⟩ | ⟨-, -, h⟩ | ⟨-, -, -, h⟩ | ⟨-, -, -, h⟩ := txStep_cases s c <;> rw [h]
  · exact .refl c s
  · exact hwTxReady_only s c
  · exact hwTxReady_only s c
  · exact (hwTxReady_only s c).trans ((OnlyChannel.hwWrite _ c _).trans (.setTx _ c _))

theorem rxStep_only (s : State) (c : Chan) (t : Timestamp) : OnlyChannel c s (rxStep s c t).state := by
  obtain ⟨-, h⟩ | ⟨b, -, -, h⟩ | ⟨b, -, -, h⟩ := rxStep_cases s c t <;> rw [h]
  · exact (afterLine_only s c).trans (.setRx _ c _)
  · exact (afterLine_only s c).trans ((OnlyChannel.storeByte c _ _ b).trans (.setRx _ c _))
  · exact afterLine_only s c

theorem pollBoth_of_going {s s1 : State} {c : Chan} (t : Timestamp) (h : txStep s c = .going s1) :
    pollBoth s c t = rxStep s1 c t := by simp only [pollBoth, h]

theorem pollBoth_of_hung {s s1 : State} {c : Chan} {a : Access} (t : Timestamp) (h : txStep s c = .hung s1 a) :
    pollBoth s c t = .hung s1 a := by simp only [pollBoth, h]

theorem pollBoth_only (s : State) (c : Chan) (t : Timestamp) : OnlyChannel c s (pollBoth s c t).state := by
  have htx := txStep_only s c
  cases h : txStep s c with
  | going s1 =>
    rw [h] at htx
    rw [pollBoth_of_going t h]
    exact htx.trans (rxStep_only s1 c t)
  | hung s1 a =>
    rw [h] at htx
    rw [pollBoth_of_hung t h]
    exact htx

theorem conclude_only (c : Chan) : ∀ p : Progress, OnlyChannel c p.state (conclude p)
  | .going s => .ret c s _ _ _
  | .hung s a => .hang c s a

/-- A channel command changes nothing but its channel, its log and its line, the memory, and how it stands itself (R55, R301). -/
theorem exec_only_of_chan {i : Instr} {c : Chan} {s t : State} (hc : i.chan = some c) (h : exec i s = .next t) :
    OnlyChannel c s t := by
  cases i with
  | now | hrnow | delta | cmp | norm | clkrd => nomatch hc
  | send c' desc count =>
    cases hc
    obtain ha | ⟨a, -, rfl⟩ | ⟨fs, -, -, -, -, rfl⟩ := execSend_cases h
    · exact .of_answers c ha
    · exact .hang c s a
    · exact (OnlyChannel.setTx s c _).trans (.ret c _ _ _ _)
  | txabort c' => cases hc; cases h; exact (OnlyChannel.setTx s c _).trans (.ret c _ _ _ _)
  | txbusy c' => cases hc; cases h; exact (hwTxReady_only s c).trans (.ret c _ _ _ _)
  | recv c' buf cap =>
    cases hc
    obtain ha | ⟨-, -, rfl⟩ := execRecv_cases h
    · exact .of_answers c ha
    · exact .pause c s _
  | rxabort c' =>
    cases hc
    obtain ha | ⟨-, rfl⟩ := execRxabort_cases h
    · exact .of_answers c ha
    · exact (OnlyChannel.setRx s c _).trans (.ret c _ _ _ _)
  | rxbusy c' => exact .of_answers c (execRxbusy_answers h)
  | rxstat c' => exact .of_answers c (execRxstat_answers h)
  | poll c' sec ns =>
    cases hc
    obtain ha | ⟨-, rfl⟩ := execPoll_cases h
    · exact .of_answers c ha
    · exact (pollBoth_only s c _).trans (conclude_only c _)

/-! ## The other frames of the access matrix -/

theorem State.Answers.frame {s t : State} (h : s.Answers t) : t = { s with micro := t.micro, resp := t.resp } := by
  obtain ⟨r, -, rfl⟩ := h
  rfl

/-- A clock command changes only its own progress and the response (R55). -/
theorem exec_frame_of_clock {i : Instr} {s t : State} (hc : i.chan = none) (h : exec i s = .next t) :
    t = { s with micro := t.micro, resp := t.resp } := by
  cases i with
  | now | hrnow => cases h; rfl
  | delta => exact (execDelta_answers h).frame
  | cmp => exact (execCmp_answers h).frame
  | norm => exact (execNorm_answers h).frame
  | clkrd => exact (execClkrd_answers h).frame
  | send | txabort | txbusy | recv | rxabort | rxbusy | rxstat | poll => nomatch hc

/-- SEND leaves the receive side, the logs, the memory and the lines (R55). -/
theorem execSend_frame {c : Chan} {desc count : Word} {s t : State} (h : execSend c desc count s = .next t) :
    t.rx c = s.rx c ∧ t.txLog = s.txLog ∧ t.mem = s.mem ∧ t.lines = s.lines := by
  obtain ⟨r, -, rfl⟩ | ⟨a, -, rfl⟩ | ⟨fs, -, -, -, -, rfl⟩ := execSend_cases h
  · exact ⟨rfl, rfl, rfl, rfl⟩
  · exact ⟨rfl, rfl, rfl, rfl⟩
  · exact ⟨setTx_rx s c c _, rfl, rfl, rfl⟩

/-- TXABORT leaves the receive side, the logs, the memory and the lines (R55). -/
theorem execTxabort_frame {c : Chan} {s t : State} (h : execTxabort c s = .next t) :
    t.rx c = s.rx c ∧ t.txLog = s.txLog ∧ t.mem = s.mem ∧ t.lines = s.lines := by
  cases h
  exact ⟨setTx_rx s c c _, rfl, rfl, rfl⟩

/-- RECV's first step changes only its own progress and the response (R55, R250). -/
theorem execRecv_frame {c : Chan} {buf cap : Word} {s t : State} (h : execRecv c buf cap s = .next t) :
    t = { s with micro := t.micro, resp := t.resp } := by
  obtain ha | ⟨-, -, rfl⟩ := execRecv_cases h
  · exact ha.frame
  · rfl

/-- RXABORT leaves the transmit side, the logs, the memory and the lines (R55). -/
theorem execRxabort_frame {c : Chan} {s t : State} (h : execRxabort c s = .next t) :
    t.tx c = s.tx c ∧ t.txLog = s.txLog ∧ t.mem = s.mem ∧ t.lines = s.lines := by
  obtain ⟨r, -, rfl⟩ | ⟨-, rfl⟩ := execRxabort_cases h
  · exact ⟨rfl, rfl, rfl, rfl⟩
  · exact ⟨setRx_tx s c c _, rfl, rfl, rfl⟩

/-- Settles O57: the frame of each family of instructions. -/
theorem accessMatrixFrames : Obligations.AccessMatrixFrames := by
  intro i s t h
  refine ⟨fun hc => exec_frame_of_clock hc h, fun c hc => ?_, ?_, ?_, ?_, ?_⟩
  · have ho := exec_only_of_chan hc h
    exact ⟨ho.others, ho.params, ho.clk, ho.turns, ho.host, ho.subTicks⟩
  · rintro c a b (rfl | rfl)
    · exact execSend_frame h
    · exact execTxabort_frame h
  · rintro c rfl
    cases h
    exact ⟨rfl, rfl, rfl⟩
  · rintro c a b (rfl | rfl | rfl)
    · exact execRecv_frame h
    · exact (execRxbusy_answers h).frame
    · exact (execRxstat_answers h).frame
  · rintro c rfl
    exact execRxabort_frame h

/-! ## Micro-steps -/

theorem readStep_nsec (s : State) (r : Reader) (g sec : Word) :
    readStep s r (.nsec g sec) = if samplesSub s r then s.pause (.reading r (.sub g sec s.clk.nsec))
      else s.pause (.reading r (.gen2 g sec s.clk.nsec none)) := rfl

theorem readStep_gen2 (s : State) (r : Reader) (g sec ns : Word) (sub : Option Word) :
    readStep s r (.gen2 g sec ns sub) = if genAccepts g s.clk.gen then acceptRead s (readTime sec ns sub) r
      else s.pause (.reading r .gen1) := rfl

/-- A micro-step of a reading loop changes only its own progress, the response and the sub-period draw (R156, R159). -/
theorem readStep_frame (s : State) (r : Reader) (p : ReadPhase) :
    readStep s r p = { s with
      micro := (readStep s r p).micro, resp := (readStep s r p).resp, subTicks := (readStep s r p).subTicks } := by
  cases p with
  | gen1 | sec | sub => rfl
  | nsec g sec =>
    rw [readStep_nsec]
    split <;> rfl
  | gen2 g sec ns sub =>
    rw [readStep_gen2]
    split
    · cases r <;> rfl
    · rfl

/-- Settles O58: a micro-step is one read of the loop, or the arming of the slot. -/
theorem microStepFrame : Obligations.MicroStepFrame := by
  refine fun s m => ⟨?_, ?_⟩
  · rintro r p rfl
    exact readStep_frame s r p
  · rintro c buf cap u rfl
    rfl

/-! ## Host turns -/

theorem exec_clk_params {i : Instr} {s t : State} (h : exec i s = .next t) : t.clk = s.clk ∧ t.params = s.params := by
  cases hc : i.chan with
  | none =>
    rw [exec_frame_of_clock hc h]
    exact ⟨rfl, rfl⟩
  | some c =>
    have ho := exec_only_of_chan hc h
    exact ⟨ho.clk, ho.params⟩

theorem microStep_clk_params (s : State) (m : Micro) :
    (microStep s m).clk = s.clk ∧ (microStep s m).params = s.params := by
  cases m with
  | reading r p =>
    change (readStep s r p).clk = s.clk ∧ (readStep s r p).params = s.params
    rw [readStep_frame]
    exact ⟨rfl, rfl⟩
  | arming => exact ⟨rfl, rfl⟩

theorem present_of_decode_ok {k : Command} {s : State} {i : Instr} (h : decode s.params.nchan k = .ok i) :
    present k s = exec i s := by simp only [present, h]

theorem present_of_decode_error {k : Command} {s : State} {e : DecodeError} (h : decode s.params.nchan k = .error e) :
    present k s = .next (s.ret .illegal 0 0) := by simp only [present, h, retIllegal_eq]

theorem hostAct_clk_params {a : HostAct} {s t : State} (h : hostAct a s = .next t) :
    t.clk = s.clk ∧ t.params = s.params := by
  cases a with
  | idle | store => cases h; exact ⟨rfl, rfl⟩
  | command k =>
    change present k s = .next t at h
    cases hd : decode s.params.nchan k with
    | ok i => exact exec_clk_params ((present_of_decode_ok hd).symm.trans h)
    | error e =>
      cases (present_of_decode_error hd).symm.trans h
      exact ⟨rfl, rfl⟩

/-- Settles O14: neither a micro-step nor an act of the host writes the clock or a parameter. -/
theorem onlyTheTickWritesTheClock : Obligations.OnlyTheTickWritesTheClock := by
  intro s t h
  obtain ⟨a, -, hturn⟩ | ⟨-, m, -, hturn⟩ | ⟨-, -, hturn⟩ := hostTurn_cases s <;> rw [hturn] at h
  · nomatch h
  · cases h
    exact microStep_clk_params s m
  · exact hostAct_clk_params (s := (nextAct s).2) h

/-- Between commands the host's turn is its next act (R32). -/
theorem hostTurn_of_free {s : State} (h : s.free) : hostTurn s = hostAct (nextAct s).1 (nextAct s).2 := by
  obtain ⟨hmicro, hstuck⟩ := h
  obtain ⟨a, ha, -⟩ | ⟨-, m, hm, -⟩ | ⟨-, -, hturn⟩ := hostTurn_cases s
  · nomatch hstuck.symm.trans ha
  · nomatch hmicro.symm.trans hm
  · exact hturn

/-- A queued act is the one the host takes, on the state with that act used up (R20, R32). -/
theorem nextAct_of_queue {s : State} {a : HostAct} {as : List HostAct} (h : s.host.queue = a :: as) :
    nextAct s = (a, { s with host := ⟨as, s.host.taken + 1⟩ }) := by
  simp only [nextAct, draw_of_queue Config.freeHostAct s.host a as h]

/-- A free host's queued act is what its turn runs, with the act used up (R20, R32). -/
theorem hostTurn_of_host_queue {s : State} {a : HostAct} {as : List HostAct} (hfree : s.free)
    (hact : s.host.queue = a :: as) : hostTurn s = hostAct a { s with host := ⟨as, s.host.taken + 1⟩ } := by
  rw [hostTurn_of_free hfree, nextAct_of_queue hact]

/-- Settles O6: the queued act presents the command, and decoding gives the instruction. -/
theorem stepRunsTheDecodedInstruction : Obligations.StepRunsTheDecodedInstruction := by
  intro s ts as k i hfree hturn hact hdecode
  calc step s
      = hostTurn { s with turns := ⟨ts, s.turns.taken + 1⟩ } := step_of_turn_queue hturn
    _ = present k { s with turns := ⟨ts, s.turns.taken + 1⟩, host := ⟨as, s.host.taken + 1⟩ } :=
        hostTurn_of_host_queue (s := { s with turns := ⟨ts, s.turns.taken + 1⟩ }) hfree hact
    _ = exec i { s with turns := ⟨ts, s.turns.taken + 1⟩, host := ⟨as, s.host.taken + 1⟩ } :=
        present_of_decode_ok hdecode

end Sys2Proof.Machine
end

section
/-! The state after reset (R54, R370) and the invariant of Safety.lean (R11, R36, R42, R48, R49, R110, R153): O51, O52, O53. -/

namespace Sys2Proof.Machine

open Sys2Proof

/-! ## The state after reset -/

@[simp] theorem resetWith_chan (p : Params) (c : Chan) : (State.resetWith p).chan c = ⟨TxSide.zero, RxSide.zero⟩ := by
  simp [State.chan, State.resetWith]

@[simp] theorem resetWith_tx (p : Params) (c : Chan) : (State.resetWith p).tx c = TxSide.zero :=
  congrArg Channel.tx (resetWith_chan p c)

@[simp] theorem resetWith_rx (p : Params) (c : Chan) : (State.resetWith p).rx c = RxSide.zero :=
  congrArg Channel.rx (resetWith_chan p c)

@[simp] theorem resetWith_log (p : Params) (c : Chan) : (State.resetWith p).log c = [] := by
  simp [State.log, State.resetWith]

/-- Settles O51: every channel holds the two zeroed sides. -/
theorem resetState : Obligations.ResetState := by
  refine ⟨fun p => ⟨rfl, rfl, ⟨rfl, rfl⟩, fun c => ?_⟩, rfl⟩
  rw [resetWith_tx]
  exact ⟨resetWith_log p c, resetWith_rx p c, rfl, rfl, rfl, rfl, rfl, fun j => Vector.getElem_replicate j.isLt⟩

/-! ## The parameters -/

/-- P_TICK_NS is at least 1 and below one second (R12). -/
theorem Params.tickNs_bounds {p : Params} (h : p.wf = true) : 1 ≤ p.tickNs ∧ p.tickNs < nsPerS := by
  simp only [Params.wf, Bool.and_eq_true, decide_eq_true_eq] at h
  obtain ⟨⟨⟨-, hpos⟩, hlt⟩, -⟩ := h
  exact ⟨hpos, hlt⟩

/-! ## The transmit invariant (R42) -/

theorem TxSide.good_zero : TxSide.zero.good := ⟨by decide, by decide, nofun⟩

/-- A non-empty fragment of a legal table, once in flight, meets R42 in either state. -/
theorem TxSide.good_beginFrag {t : TxSide} {j : Nat} {k : Fin 32} (hcount : t.fcount.toNat ≤ fragMax)
    (htotal : totalLen (t.ft.toList.take t.fcount.toNat) ≤ byteMax) (hk : firstNonempty t j = some k) (st : TxState) :
    TxSide.good { beginFrag t k with state := st } := by
  obtain ⟨-, hlt, hlen⟩ := firstNonempty_some hk
  have hpos : t.ft[k.val].len.toNat ≠ 0 := fun h0 => hlen (BitVec.eq_of_toNat_eq h0)
  exact ⟨hcount, htotal, fun _ => ⟨Nat.pos_of_ne_zero hpos, hlt⟩⟩

/-- The entries SEND latches are the list it has read (R201). -/
theorem latchFrags_take {ft : Vector Frag 32} {fs : List Frag} (h : fs.length ≤ 32) :
    (latchFrags ft fs).toList.take fs.length = fs := by
  apply List.ext_getElem
  · simp [h]
  · intro j hj hj'
    simp [latchFrags, hj']

/-- An accepted list meets R42 (R201). -/
theorem TxSide.good_acceptList {t : TxSide} {count : Word} {fs : List Frag} (hidle : t.state = .idle)
    (hcount : count.toNat ≤ fragMax) (hlength : fs.length = count.toNat) (htotal : totalLen fs ≤ byteMax) :
    (acceptList t count fs).good := by
  have hmax : count.toNat ≤ 32 := hcount
  have hfcount : (count.setWidth 6).toNat = count.toNat := by
    rw [BitVec.toNat_setWidth]
    omega
  have htake : (latchFrags t.ft fs).toList.take (count.setWidth 6).toNat = fs := by
    rw [hfcount, ← hlength]
    exact latchFrags_take (by omega)
  dsimp only [acceptList]
  split
  · exact ⟨hfcount ▸ hcount, htake.symm ▸ htotal, fun h => nomatch hidle.symm.trans h⟩
  next k hk => exact good_beginFrag (hfcount ▸ hcount) (htake.symm ▸ htotal) hk _

/-- Sending a byte keeps R42 (R203). -/
theorem TxSide.good_advanceTx {t : TxSide} (h : t.good) (hdraining : t.state = .draining) : (advanceTx t).good := by
  obtain ⟨hcount, htotal, hflight⟩ := h
  obtain ⟨hrem, heq⟩ | ⟨-, -, heq⟩ | ⟨k, -, hk, heq⟩ := advanceTx_cases t <;> rw [heq]
  · have hpos : (t.curRem - 1).toNat ≠ 0 := fun h0 => hrem (BitVec.eq_of_toNat_eq h0)
    exact ⟨hcount, htotal, fun _ => ⟨Nat.pos_of_ne_zero hpos, (hflight hdraining).2⟩⟩
  · exact ⟨hcount, htotal, nofun⟩
  · exact good_beginFrag hcount htotal hk t.state

/-! ## The receive invariant (R49) -/

theorem RxSide.good_zero : RxSide.zero.good := ⟨by decide, nofun, nofun, nofun⟩

/-- R49, save that an armed slot may be full: what `rx_complete_check` is given after a store (R251, R252). -/
def RxSide.GoodOrFull (r : RxSide) : Prop :=
  tsValid r.last ∧ r.kind ≠ .lineBreak ∧
  (r.kind = .data → r.len.toNat ≤ r.cap.toNat) ∧
  (r.state = .armed → capGood r.cap ∧ r.idx.toNat ≤ r.cap.toNat ∧ r.kind = .none)

theorem RxSide.good.goodOrFull {r : RxSide} (h : r.good) : r.GoodOrFull := by
  obtain ⟨hlast, hkind, hlen, harmed⟩ := h
  refine ⟨hlast, hkind, hlen, fun hs => ?_⟩
  obtain ⟨hcap, hidx, hnone⟩ := harmed hs
  exact ⟨hcap, hidx.le, hnone⟩

/-- A stored byte moves IDX one on, at most to the capacity (R251). -/
theorem RxSide.goodOrFull_store {r : RxSide} {t : Timestamp} (h : r.good) (hs : r.state = .armed) (ht : tsValid t) :
    RxSide.GoodOrFull { r with idx := r.idx + 1, last := t } := by
  obtain ⟨-, hkind, hlen, harmed⟩ := h
  obtain ⟨hcap, hidx, hnone⟩ := harmed hs
  refine ⟨ht, hkind, hlen, fun _ => ⟨hcap, ?_, hnone⟩⟩
  rw [BitVec.toNat_add]
  exact (Nat.mod_le _ _).trans hidx

theorem RxSide.good_completeRx {r : RxSide} {n : Word} (ht : tsValid r.last) (hn : n.toNat ≤ r.cap.toNat) :
    (completeRx r n).good :=
  ⟨ht, nofun, fun _ => hn, nofun⟩

theorem RxSide.good_armedSlot {buf cap : Word} {t : Timestamp} (hcap : capGood cap) (ht : tsValid t) :
    (armedSlot buf cap t).good :=
  ⟨ht, nofun, nofun, fun _ => ⟨hcap, hcap.1, rfl⟩⟩

/-- The check of R252 completes a full slot and so restores R49. -/
theorem RxSide.good_checkComplete {r : RxSide} (h : r.GoodOrFull) (timeout t : Timestamp) :
    (checkComplete r timeout t).good := by
  obtain ⟨hlast, hkind, hlen, harmed⟩ := h
  obtain ⟨hs, heq⟩ | ⟨hs, -, heq⟩ | ⟨hs, -, -, heq⟩ | ⟨hs, hnotFull, -, heq⟩ := checkComplete_cases r timeout t <;> rw [heq]
  · exact ⟨hlast, hkind, hlen, fun h => nomatch hs.symm.trans h⟩
  · exact good_completeRx hlast le_rfl
  · exact good_completeRx hlast (harmed hs).2.1
  · obtain ⟨hcap, hidx, hnone⟩ := harmed hs
    have hlt : r.idx.toNat < r.cap.toNat := lt_of_le_of_ne hidx fun h => hnotFull (BitVec.eq_of_toNat_eq h)
    exact ⟨hlast, hkind, hlen, fun _ => ⟨hcap, hlt, hnone⟩⟩

/-! ## The part of the invariant that does not speak of the command in progress -/

/-- The clauses of `State.Inv` on the parameters, the clock, the memory and the channels. -/
structure State.BlockInv (s : State) : Prop where
  params : s.params.wf = true
  nsec   : s.clk.nsec.toNat < nsPerS
  gen    : s.clk.gen.toNat % 2 = 0
  mem    : memWf s.mem = true
  tx     : ∀ c, (s.tx c).good
  rx     : ∀ c, (s.rx c).good
  absent : ∀ c : Chan, s.params.nchan ≤ c.val → (s.chan c).untouched ∧ s.log c = []

theorem State.Inv.block {s : State} (h : s.Inv) : s.BlockInv := { h with }

namespace State.BlockInv

variable {s : State} (h : s.BlockInv)
include h

/-- A write to a channel below P_NCHAN reaches no channel at or above it (R11). -/
theorem absent_of_only {t : State} {c : Chan} (hc : c.val < s.params.nchan) (ho : OnlyChannel c s t) (d : Chan)
    (hd : t.params.nchan ≤ d.val) : (t.chan d).untouched ∧ t.log d = [] := by
  rw [ho.params] at hd
  obtain ⟨hchan, hlog, -⟩ := ho.others d (by rintro rfl; omega)
  rw [hchan, hlog]
  exact h.absent d hd

theorem setTx {c : Chan} {x : TxSide} (hc : c.val < s.params.nchan) (hx : x.good) : (s.setTx c x).BlockInv :=
  { h with
    tx := fun d => by
      rw [setTx_tx]
      split
      · exact hx
      · exact h.tx d
    rx := fun d => (setTx_rx s c d x).symm ▸ h.rx d
    absent := h.absent_of_only hc (.setTx s c x) }

theorem setRx {c : Chan} {x : RxSide} (hc : c.val < s.params.nchan) (hx : x.good) : (s.setRx c x).BlockInv :=
  { h with
    rx := fun d => by
      rw [setRx_rx]
      split
      · exact hx
      · exact h.rx d
    tx := fun d => (setRx_tx s c d x).symm ▸ h.tx d
    absent := h.absent_of_only hc (.setRx s c x) }

theorem hwWrite {c : Chan} (hc : c.val < s.params.nchan) (b : Byte) : (hwWrite s c b).BlockInv :=
  { h with absent := h.absent_of_only hc (.hwWrite s c b) }

theorem storeByte (a : Word) (b : Byte) : (storeByte s a b).BlockInv := { h with mem := storeByte_wf h.mem a b }

theorem hwTxReady (c : Chan) : (hwTxReady s c).2.BlockInv := { h with }

theorem afterLine (c : Chan) : (afterLine s c).BlockInv := by
  obtain ⟨ls, hls⟩ := afterLine_eq s c
  rw [hls]
  exact { h with }

theorem subTick : (subTick s).2.BlockInv := { h with }

/-! How the command then stands: answered, paused, or stuck (R48, R110, R330). -/

theorem answers {t : State} (hstuck : s.stuck = none) (ht : s.Answers t) : t.Inv := by
  obtain ⟨r, hr, rfl⟩ := ht
  exact { h with
    micro := nofun
    stuck := fun _ ha => nomatch hstuck.symm.trans ha
    resp := fun _ hr' => Option.some.inj hr' ▸ hr }

theorem retOk (hstuck : s.stuck = none) (r0 r1 : Word) : (s.ret .ok r0 r1).Inv := h.answers hstuck (s.answers_ok r0 r1)

theorem pause {m : Micro} (hstuck : s.stuck = none) (hm : microGood s m) : (s.pause m).Inv :=
  { h with
    micro := fun _ hm' => Option.some.inj hm' ▸ hm
    stuck := fun _ ha => nomatch hstuck.symm.trans ha
    resp := nofun }

theorem hang {a : Access} (hmicro : s.micro = none) (ha : memOk s.params a = false) : (s.hang a).Inv :=
  { h with
    micro := fun _ hm => nomatch hmicro.symm.trans hm
    stuck := fun _ ha' => ⟨hmicro, rfl, Option.some.inj ha' ▸ ha⟩
    resp := nofun }

end State.BlockInv

theorem resetWith_inv {p : Params} (h : p.wf = true) : (State.resetWith p).Inv where
  params := h
  nsec := show (0 : Word).toNat < nsPerS by decide
  gen := rfl
  mem := rfl
  tx c := (resetWith_tx p c).symm ▸ TxSide.good_zero
  rx c := (resetWith_rx p c).symm ▸ RxSide.good_zero
  absent c _ := ⟨resetWith_chan p c, resetWith_log p c⟩
  micro := nofun
  stuck := nofun
  resp := nofun

/-- Settles O52: the reset state for all legal parameters, `Params.source` among them. -/
theorem invariantHoldsAtReset : Obligations.InvariantHoldsAtReset :=
  ⟨fun _ h => resetWith_inv h, resetWith_inv (by decide)⟩

/-! ## The reading loops (R153, R156, R159) -/

theorem readTime_valid {p : Params} {g sec ns : Word} {sub : Option Word} (h : phaseGood p (.gen2 g sec ns sub)) :
    tsValid (readTime sec ns sub) := by
  cases sub with
  | none => exact h.2.1
  | some v => exact normalize_valid sec _

/-- An accepted attempt returns its time, or leaves a RECV with a valid time in hand. -/
theorem acceptRead_inv {s : State} {r : Reader} {t : Timestamp} (h : s.BlockInv) (hstuck : s.stuck = none)
    (hr : readerGood s r) (ht : tsValid t) : (acceptRead s t r).Inv := by
  cases r with
  | now | hrnow => exact h.retOk hstuck _ _
  | recv c buf cap =>
    obtain ⟨hc, hcap, hunarmed⟩ := hr
    exact h.pause hstuck ⟨hc, hcap, hunarmed, ht⟩

/-- Every read of a loop keeps the invariant. -/
theorem readStep_inv {s : State} {r : Reader} {p : ReadPhase} (h : s.BlockInv) (hstuck : s.stuck = none)
    (hr : readerGood s r) (hp : phaseGood s.params p) : (readStep s r p).Inv := by
  cases p with
  | gen1 => exact h.pause hstuck ⟨hr, h.gen⟩
  | sec g => exact h.pause hstuck ⟨hr, hp⟩
  | nsec g sec =>
    rw [readStep_nsec]
    split
    · exact h.pause hstuck ⟨hr, hp, h.nsec⟩
    · exact h.pause hstuck ⟨hr, hp, h.nsec, nofun⟩
  | sub g sec ns =>
    obtain ⟨heven, hns⟩ := hp
    obtain ⟨hpos, hlt⟩ := Params.tickNs_bounds h.params
    have hsub : ∀ v, some (subTick s).1 = some v → v.toNat < s.params.tickNs := by
      rintro v ⟨⟩
      exact subTick_lt hpos hlt
    have hreader : readerGood (subTick s).2 r := by
      cases r <;> exact hr
    exact h.subTick.pause hstuck ⟨hreader, heven, hns, hsub⟩
  | gen2 g sec ns sub =>
    rw [readStep_gen2]
    split
    · exact acceptRead_inv h hstuck hr (readTime_valid hp)
    · exact h.pause hstuck ⟨hr, trivial⟩

/-- Every micro-step of the command in progress keeps the invariant (R48). -/
theorem microStep_inv {s : State} {m : Micro} (h : s.BlockInv) (hstuck : s.stuck = none) (hm : microGood s m) :
    (microStep s m).Inv := by
  cases m with
  | reading r p =>
    obtain ⟨hr, hp⟩ := hm
    exact readStep_inv h hstuck hr hp
  | arming c buf cap t =>
    obtain ⟨hc, hcap, -, ht⟩ := hm
    exact (h.setRx hc (RxSide.good_armedSlot hcap ht)).retOk hstuck 0 0

/-! ## The descriptor reads of SEND (R81, R200, R201) -/

theorem loadByte_error {s : State} {a : Word} {x : Access} (h : loadByte s a = .error x) : memOk s.params x = false := by
  cases hm : memOk s.params ⟨.read, a⟩ with
  | true => nomatch (loadByte_ok hm).symm.trans h
  | false =>
    cases (loadByte_refused hm).symm.trans h
    exact hm

theorem loadBytes_error {s : State} {a : Word} {n : Nat} {x : Access} (h : loadBytes s a n = .error x) :
    memOk s.params x = false := by
  induction n generalizing a with
  | zero => nomatch h
  | succ n ih =>
    simp only [loadBytes] at h
    split at h
    next e hbyte => cases h; exact loadByte_error hbyte
    · split at h
      next e hrest => cases h; exact ih hrest
      · nomatch h

theorem loadWord_error {s : State} {a : Word} {x : Access} (h : loadWord s a = .error x) : memOk s.params x = false := by
  unfold loadWord at h
  split at h
  next e hbytes => cases h; exact loadBytes_error hbytes
  · nomatch h

theorem loadFrag_error {s : State} {a : Word} {x : Access} (h : loadFrag s a = .error x) : memOk s.params x = false := by
  unfold loadFrag at h
  split at h
  next e haddr => cases h; exact loadWord_error haddr
  · split at h
    next e hlen => cases h; exact loadWord_error hlen
    · nomatch h

/-- A list that cannot be read was stopped by an access the platform refuses (R81). -/
theorem loadFrags_error {s : State} {a : Word} {n : Nat} {x : Access} (h : loadFrags s a n = .error x) :
    memOk s.params x = false := by
  induction n generalizing a with
  | zero => nomatch h
  | succ n ih =>
    simp only [loadFrags] at h
    split at h
    next e hfrag => cases h; exact loadFrag_error hfrag
    · split at h
      next e hrest => cases h; exact ih hrest
      · nomatch h

theorem loadFrags_length {s : State} {a : Word} {n : Nat} {fs : List Frag} (h : loadFrags s a n = .ok fs) :
    fs.length = n := by
  induction n generalizing a fs with
  | zero => cases h; rfl
  | succ n ih =>
    simp only [loadFrags] at h
    split at h
    · nomatch h
    · split at h
      · nomatch h
      next f hfrag rest hrest => cases h; exact congrArg Nat.succ (ih hrest)

/-! ## The two halves of POLL (R300) -/

/-- A run of effects of a command presented in a good state: it may go on, or it stopped on a refused access. -/
def Progress.Good : Progress → Prop
  | .going s => s.BlockInv ∧ s.free
  | .hung s a => s.BlockInv ∧ s.free ∧ memOk s.params a = false

theorem conclude_inv {p : Progress} (h : p.Good) : (conclude p).Inv := by
  cases p with
  | going s =>
    obtain ⟨hb, -, hstuck⟩ := h
    exact hb.retOk hstuck 0 0
  | hung s a =>
    obtain ⟨hb, ⟨hmicro, -⟩, ha⟩ := h
    exact hb.hang hmicro ha

theorem afterLine_free {s : State} {c : Chan} (hfree : s.free) : (afterLine s c).free := by
  obtain ⟨ls, hls⟩ := afterLine_eq s c
  rw [hls]
  exact hfree

section
variable {s : State} {c : Chan} (h : s.BlockInv) (hfree : s.free) (hc : c.val < s.params.nchan)
include h hfree hc

theorem txStep_good : (txStep s c).Good := by
  obtain ⟨-, heq⟩ | ⟨-, -, heq⟩ | ⟨-, -, hrefused, heq⟩ | ⟨hdraining, -, -, heq⟩ := txStep_cases s c <;> rw [heq]
  · exact ⟨h, hfree⟩
  · exact ⟨h.hwTxReady c, hfree⟩
  · exact ⟨h.hwTxReady c, hfree, hrefused⟩
  · have hsent := (h.hwTxReady c).hwWrite hc (memRead s.mem (s.tx c).curAddr.toNat)
    exact ⟨hsent.setTx hc (TxSide.good_advanceTx (h.tx c) hdraining), hfree⟩

theorem rxStep_good {t : Timestamp} (ht : tsValid t) : (rxStep s c t).Good := by
  have hline := h.afterLine c
  have hlineFree : (afterLine s c).free := afterLine_free hfree
  have hparams := (afterLine_only s c).params
  have hcline : c.val < (afterLine s c).params.nchan := hparams ▸ hc
  obtain ⟨-, heq⟩ | ⟨b, hb, -, heq⟩ | ⟨b, -, hrefused, heq⟩ := rxStep_cases s c t <;> rw [heq]
  · exact ⟨hline.setRx hcline (RxSide.good_checkComplete (h.rx c).goodOrFull _ t), hlineFree⟩
  · have hslot := RxSide.goodOrFull_store (h.rx c) (acceptedByte_some hb).1 ht
    exact ⟨(hline.storeByte _ b).setRx hcline (RxSide.good_checkComplete hslot _ t), hlineFree⟩
  · exact ⟨hline, hlineFree, hparams ▸ hrefused⟩

theorem pollBoth_good {t : Timestamp} (ht : tsValid t) : (pollBoth s c t).Good := by
  have hgood := txStep_good h hfree hc
  have hparams := (txStep_only s c).params
  cases htx : txStep s c with
  | going s1 =>
    rw [htx] at hgood hparams
    obtain ⟨h1, hfree1⟩ := hgood
    rw [pollBoth_of_going t htx]
    exact rxStep_good h1 hfree1 (hparams ▸ hc) ht
  | hung s1 a =>
    rw [htx] at hgood
    rw [pollBoth_of_hung t htx]
    exact hgood

end

/-! ## Commands -/

theorem assemble_chan (o : Op) (c : Chan) (k : Command) :
    (assemble o c k).chan = if isClock o then none else some c := by
  cases o <;> rfl

/-- A decoded channel command names a channel below P_NCHAN (R116). -/
theorem decode_chan_lt {nchan : Nat} {k : Command} {i : Instr} {c : Chan} (h : decode nchan k = .ok i)
    (hc : i.chan = some c) : c.val < nchan := by
  unfold decode at h
  split at h
  · nomatch h
  · split at h
    · nomatch h
    next o ho =>
      split at h
      · nomatch h
      · split at h
        · nomatch h
        next hchan =>
          cases h
          rw [assemble_chan] at hc
          split at hc
          · nomatch hc
          next hclock =>
            cases hc
            exact Nat.not_le.mp fun hle => hchan ⟨Bool.not_eq_true _ ▸ hclock, hle⟩

/-- A command on a channel below P_NCHAN, presented in a good state, leads to a good state. -/
theorem exec_inv {i : Instr} {s t : State} (h : s.BlockInv) (hfree : s.free)
    (hchan : ∀ c, i.chan = some c → c.val < s.params.nchan) (hexec : exec i s = .next t) : t.Inv := by
  have hstuck : s.stuck = none := hfree.2
  cases i with
  | now | hrnow => cases hexec; exact readStep_inv h hstuck trivial trivial
  | delta => exact h.answers hstuck (execDelta_answers hexec)
  | cmp => exact h.answers hstuck (execCmp_answers hexec)
  | norm => exact h.answers hstuck (execNorm_answers hexec)
  | clkrd => exact h.answers hstuck (execClkrd_answers hexec)
  | send c desc count =>
    obtain ha | ⟨a, hload, rfl⟩ | ⟨fs, hidle, hcount, hload, htotal, rfl⟩ := execSend_cases hexec
    · exact h.answers hstuck ha
    · exact h.hang hfree.1 (loadFrags_error hload)
    · have hgood := TxSide.good_acceptList hidle hcount (loadFrags_length hload) htotal
      exact (h.setTx (hchan c rfl) hgood).retOk hstuck 0 0
  | txabort c => cases hexec; exact (h.setTx (hchan c rfl) TxSide.good_zero).retOk hstuck 0 0
  | txbusy c => cases hexec; exact (h.hwTxReady c).retOk hstuck _ 0
  | recv c buf cap =>
    obtain ha | ⟨hunarmed, hcap, rfl⟩ := execRecv_cases hexec
    · exact h.answers hstuck ha
    · exact readStep_inv h hstuck ⟨hchan c rfl, hcap, hunarmed⟩ trivial
  | rxabort c =>
    obtain ha | ⟨harmed, rfl⟩ := execRxabort_cases hexec
    · exact h.answers hstuck ha
    · obtain ⟨hlast, -, -, hslot⟩ := h.rx c
      exact (h.setRx (hchan c rfl) (RxSide.good_completeRx hlast (hslot harmed).2.1.le)).retOk hstuck 0 0
  | rxbusy => exact h.answers hstuck (execRxbusy_answers hexec)
  | rxstat => exact h.answers hstuck (execRxstat_answers hexec)
  | poll c sec ns =>
    obtain ha | ⟨ht, rfl⟩ := execPoll_cases hexec
    · exact h.answers hstuck ha
    · exact conclude_inv (pollBoth_good h hfree (hchan c rfl) ht)

/-! ## Turns -/

/-- The two GEN writes of a TICK lead from an even generation to an even one (R152, R153). -/
theorem even_add_two {g : Word} (h : g.toNat % 2 = 0) : (g + 1 + 1).toNat % 2 = 0 := by
  bv_omega

/-- The TICK keeps NSEC below one second and GEN even (R152). -/
theorem takeTick_inv {s : State} (h : s.Inv) : (takeTick s).Inv :=
  { h with
    nsec := normalize_valid s.clk.sec (s.clk.nsec.toNat + s.params.tickNs)
    gen := even_add_two h.gen }

theorem hostAct_inv {a : HostAct} {s t : State} (h : s.Inv) (hfree : s.free) (hact : hostAct a s = .next t) : t.Inv := by
  cases a with
  | idle => cases hact; exact h
  | store addr b => cases hact; exact { h with mem := storeByte_wf h.mem addr b }
  | command k =>
    change present k s = .next t at hact
    cases hdecode : decode s.params.nchan k with
    | ok i =>
      have hexec := (present_of_decode_ok hdecode).symm.trans hact
      exact exec_inv h.block hfree (fun c hc => decode_chan_lt hdecode hc) hexec
    | error e =>
      cases (present_of_decode_error hdecode).symm.trans hact
      exact h.block.answers hfree.2 (s.answers_zero _)

theorem hostTurn_inv {s t : State} (h : s.Inv) (hturn : hostTurn s = .next t) : t.Inv := by
  obtain ⟨a, -, heq⟩ | ⟨hstuck, m, hm, heq⟩ | ⟨hstuck, hmicro, heq⟩ := hostTurn_cases s <;> rw [heq] at hturn
  · nomatch hturn
  · cases hturn
    exact microStep_inv h.block hstuck (h.micro m hm)
  · exact hostAct_inv (s := (nextAct s).2) { h with } ⟨hmicro, hstuck⟩ hturn

/-- Settles O53: the turn drawn is the tick's, or the host's on a micro-step, an act or a command. -/
theorem stepKeepsTheInvariant : Obligations.StepKeepsTheInvariant := by
  intro s t h hstep
  have hnext : (nextTurn s).2.Inv := { h with }
  rw [step_eq] at hstep
  cases hagent : (nextTurn s).1 with
  | tick =>
    rw [hagent] at hstep
    cases hstep
    exact takeTick_inv hnext
  | host =>
    rw [hagent] at hstep
    exact hostTurn_inv hnext hstep

end Sys2Proof.Machine
end

section
/-! What the block reads and writes of memory (R81, R86, R87, R92, R114, R200): a run of byte reads takes its bytes in
ascending order and stops at the first refused one. O27, O28, O47, O10, O11. -/

namespace Sys2Proof.Machine

open Sys2Proof

/-! ## Runs of byte reads -/

/-- The platform admits reading the `n` bytes at `a`, `a + 1`, ... modulo 2^32 (R81, R82). -/
def Readable (s : State) (a : Word) (n : Nat) : Prop := ∀ k < n, memOk s.params ⟨.read, a + BitVec.ofNat 32 k⟩ = true

/-- `r` is the outcome of reading the `n` bytes from `a` on, in order, and making `v` of them: `v` when all are admitted,
else stuck on the first that is not (R16, R81). -/
structure Reads {α : Type} (s : State) (a : Word) (n : Nat) (r : Except Access α) (v : α) : Prop where
  admitted : Readable s a n → r = .ok v
  refused  : ∀ k < n, Readable s a k → memOk s.params ⟨.read, a + BitVec.ofNat 32 k⟩ = false →
    r = .error ⟨.read, a + BitVec.ofNat 32 k⟩

theorem add_ofNat_add_ofNat (a : Word) (m k : Nat) :
    a + BitVec.ofNat 32 m + BitVec.ofNat 32 k = a + BitVec.ofNat 32 (m + k) := by
  rw [BitVec.ofNat_add, BitVec.add_assoc]

theorem Readable.mono {s : State} {a : Word} {m n : Nat} (h : Readable s a n) (hmn : m ≤ n) : Readable s a m :=
  fun k hk => h k (hk.trans_le hmn)

theorem Readable.drop {s : State} {a : Word} {m n : Nat} (h : Readable s a (m + n)) :
    Readable s (a + BitVec.ofNat 32 m) n := fun k hk => by
  rw [add_ofNat_add_ofNat]
  exact h (m + k) (Nat.add_lt_add_left hk m)

namespace Reads

variable {α β : Type} {s : State} {a : Word} {m n : Nat}

theorem pure (v : α) : Reads s a 0 (.ok v) v := ⟨fun _ => rfl, nofun⟩

/-- Two runs one after another are one run: the second one's bytes are read only when the first one's are all admitted. -/
theorem bind {r : Except Access α} {v : α} {f : α → Except Access β} {w : β} (h : Reads s a m r v)
    (k : Reads s (a + BitVec.ofNat 32 m) n (f v) w) : Reads s a (m + n) (r.bind f) w where
  admitted hall := by
    rw [h.admitted (hall.mono (Nat.le_add_right m n))]
    exact k.admitted hall.drop
  refused i hi hbefore hi' := by
    by_cases him : i < m
    · rw [h.refused i him hbefore hi']
      rfl
    · obtain ⟨j, rfl⟩ := Nat.exists_eq_add_of_le (Nat.not_lt.mp him)
      rw [h.admitted (hbefore.mono (Nat.le_add_right m j))]
      rw [← add_ofNat_add_ofNat] at hi' ⊢
      exact k.refused j (Nat.add_lt_add_iff_left.mp hi) hbefore.drop hi'

/-- What is computed from a run's value reads nothing more. -/
theorem map {r : Except Access α} {v : α} (h : Reads s a n r v) (g : α → β) :
    Reads s a n (r.bind fun x => .ok (g x)) (g v) := h.bind (n := 0) (pure (g v))

end Reads

/-! ## Bytes, words and descriptors as such runs -/

/-- The byte in memory `k` places after `a`. -/
def byteAt (s : State) (a : Word) (k : Nat) : Byte := memRead s.mem (a + BitVec.ofNat 32 k).toNat

/-- The little-endian word in memory at `a` (R86). -/
def wordAt (s : State) (a : Word) : Word := BitVec.ofNat 32 (littleEndian ((List.range 4).map (byteAt s a)))

/-- The descriptor in memory at `a` (R114, R200). -/
def fragAt (s : State) (a : Word) : Frag := ⟨wordAt s a, wordAt s (a + 4)⟩

theorem byteAt_add (s : State) (a : Word) (m k : Nat) : byteAt s (a + BitVec.ofNat 32 m) k = byteAt s a (m + k) := by
  rw [byteAt, byteAt, add_ofNat_add_ofNat]

theorem loadByte_reads (s : State) (a : Word) : Reads s a 1 (loadByte s a) (byteAt s a 0) where
  admitted h := by simpa [byteAt] using loadByte_ok (h 0 Nat.one_pos)
  refused k hk _ hrefused := by
    obtain rfl : k = 0 := Nat.lt_one_iff.mp hk
    simpa using loadByte_refused hrefused

theorem loadBytes_succ (s : State) (a : Word) (n : Nat) : loadBytes s a (n + 1) =
    (loadByte s a).bind fun b => (loadBytes s (a + 1) n).bind fun bs => .ok (b :: bs) := by
  rw [loadBytes]
  cases loadByte s a with
  | error e => rfl
  | ok b => cases loadBytes s (a + 1) n <;> rfl

theorem loadBytes_reads (s : State) (a : Word) (n : Nat) :
    Reads s a n (loadBytes s a n) ((List.range n).map (byteAt s a)) := by
  induction n generalizing a with
  | zero => exact .pure []
  | succ n ih =>
    have htail : (List.range n).map (byteAt s (a + 1)) = (List.range n).map (byteAt s a ∘ Nat.succ) :=
      List.map_congr_left fun k _ => (byteAt_add s a 1 k).trans (congrArg (byteAt s a) (Nat.add_comm 1 k))
    rw [loadBytes_succ, List.range_succ_eq_map, List.map_cons, List.map_map, ← htail, Nat.add_comm]
    exact (loadByte_reads s a).bind ((ih (a + 1)).map (byteAt s a 0 :: ·))

theorem loadWord_eq (s : State) (a : Word) :
    loadWord s a = (loadBytes s a 4).bind fun bs => .ok (BitVec.ofNat 32 (littleEndian bs)) := by
  rw [loadWord]
  cases loadBytes s a 4 <;> rfl

theorem loadWord_reads (s : State) (a : Word) : Reads s a 4 (loadWord s a) (wordAt s a) := by
  rw [loadWord_eq]
  exact (loadBytes_reads s a 4).map fun bs => BitVec.ofNat 32 (littleEndian bs)

theorem loadFrag_eq (s : State) (a : Word) : loadFrag s a =
    (loadWord s a).bind fun addr => (loadWord s (a + 4)).bind fun len => .ok ⟨addr, len⟩ := by
  rw [loadFrag]
  cases loadWord s a with
  | error e => rfl
  | ok addr => cases loadWord s (a + 4) <;> rfl

theorem loadFrag_reads (s : State) (a : Word) : Reads s a 8 (loadFrag s a) (fragAt s a) := by
  rw [loadFrag_eq]
  exact (loadWord_reads s a).bind (n := 4) ((loadWord_reads s (a + 4)).map (Frag.mk (wordAt s a)))

theorem loadFrags_succ (s : State) (a : Word) (n : Nat) : loadFrags s a (n + 1) =
    (loadFrag s a).bind fun f => (loadFrags s (a + 8) n).bind fun fs => .ok (f :: fs) := by
  rw [loadFrags]
  cases loadFrag s a with
  | error e => rfl
  | ok f => cases loadFrags s (a + 8) n <;> rfl

/-- `n` descriptors are one run of `8 * n` byte reads (R114, R200). -/
theorem loadFrags_reads (s : State) (a : Word) (n : Nat) : Reads s a (8 * n) (loadFrags s a n)
    ((List.range n).map fun j => fragAt s (a + BitVec.ofNat 32 (8 * j))) := by
  induction n generalizing a with
  | zero => exact .pure []
  | succ n ih =>
    have htail : (List.range n).map (fun j => fragAt s (a + 8 + BitVec.ofNat 32 (8 * j))) =
        (List.range n).map ((fun j => fragAt s (a + BitVec.ofNat 32 (8 * j))) ∘ Nat.succ) :=
      List.map_congr_left fun j _ => congrArg (fragAt s)
        ((add_ofNat_add_ofNat a 8 (8 * j)).trans (by rw [Nat.mul_succ, Nat.add_comm]))
    have hhead : fragAt s (a + BitVec.ofNat 32 (8 * 0)) = fragAt s a := congrArg (fragAt s) (BitVec.add_zero a)
    rw [loadFrags_succ, List.range_succ_eq_map, List.map_cons, List.map_map, ← htail, hhead, Nat.mul_succ, Nat.add_comm]
    exact (loadFrag_reads s a).bind ((ih (a + 8)).map (fragAt s a :: ·))

/-- The word at `a + k` spelled by its four bytes, the lowest address least significant (R86). -/
theorem wordAt_add (s : State) (a : Word) (k : Nat) : wordAt s (a + BitVec.ofNat 32 k) = BitVec.ofNat 32
    ((byteAt s a k).toNat + 256 * (byteAt s a (k + 1)).toNat + 65536 * (byteAt s a (k + 2)).toNat +
      16777216 * (byteAt s a (k + 3)).toNat) := by
  have hbytes : (List.range 4).map (byteAt s (a + BitVec.ofNat 32 k)) =
      [byteAt s a k, byteAt s a (k + 1), byteAt s a (k + 2), byteAt s a (k + 3)] :=
    List.map_congr_left fun j _ => byteAt_add s a k j
  rw [wordAt, hbytes]
  simp only [littleEndian]
  congr 1
  omega

/-- Settles O27: the reads are one run of admitted bytes, and each descriptor in it is two little-endian words. -/
theorem descriptorsAreReadLittleEndian : Obligations.DescriptorsAreReadLittleEndian := by
  intro s a n hall b w
  have hword : ∀ k, wordAt s (a + BitVec.ofNat 32 k) = w k := wordAt_add s a
  have hfrag : ∀ j, fragAt s (a + BitVec.ofNat 32 (8 * j)) = ⟨w (8 * j), w (8 * j + 4)⟩ := fun j =>
    congrArg₂ Frag.mk (hword (8 * j))
      ((congrArg (wordAt s) (add_ofNat_add_ofNat a (8 * j) 4)).trans (hword (8 * j + 4)))
  rw [(loadFrags_reads s a n).admitted hall]
  exact congrArg Except.ok (List.map_congr_left fun j _ => hfrag j)

/-! ## SEND on a refused descriptor byte -/

/-- A SEND that passes its first three checks and cannot read its list is stuck, with nothing changed (R81, R201). -/
theorem execSend_of_refused {c : Chan} {desc count : Word} {s : State} {x : Access} (hidle : (s.tx c).state = .idle)
    (hpos : 1 ≤ count.toNat) (hmax : count.toNat ≤ fragMax) (hload : loadFrags s desc count.toNat = .error x) :
    execSend c desc count s = .next (s.hang x) := by
  have hcount : count ≠ 0 := by
    rintro rfl
    exact absurd hpos (by decide)
  have hstate : (s.tx c).state ≠ .draining := hidle ▸ nofun
  rw [execSend, if_neg hcount, if_neg hstate, if_neg (Nat.not_lt.mpr hmax), hload]

/-- Settles O28: the refused byte is the first of the run of reads the list takes. -/
theorem sendIsStuckOnARefusedDescriptorByte : Obligations.SendIsStuckOnARefusedDescriptorByte := by
  intro s c desc count k hidle hpos hmax hk hbefore hrefused
  exact execSend_of_refused hidle hpos hmax ((loadFrags_reads s desc count.toNat).refused k hk hbefore hrefused)

/-! ## POLL on a refused access -/

theorem execPoll_of_valid {c : Chan} {sec ns : Word} {s : State} (h : ns.toNat < nsPerS) :
    execPoll c sec ns s = .next (conclude (pollBoth s c ⟨sec, ns⟩)) := by
  rw [execPoll, tsOperand_of_valid h]

/-- The last two cases of `txStep_cases`: a ready line and a fragment byte that is refused, or sent (R203). -/
theorem txStep_of_refused {s : State} {c : Chan} (hdraining : (s.tx c).state = .draining)
    (hready : (hwTxReady s c).1 = true) (hrefused : memOk s.params ⟨.read, (s.tx c).curAddr⟩ = false) :
    txStep s c = .hung (hwTxReady s c).2 ⟨.read, (s.tx c).curAddr⟩ := by
  simp [txStep, hdraining, hready, loadByte, hrefused]

theorem txStep_of_admitted {s : State} {c : Chan} (hdraining : (s.tx c).state = .draining)
    (hready : (hwTxReady s c).1 = true) (hadmitted : memOk s.params ⟨.read, (s.tx c).curAddr⟩ = true) :
    txStep s c = .going ((hwWrite (hwTxReady s c).2 c (memRead s.mem (s.tx c).curAddr.toNat)).setTx c
      (advanceTx (s.tx c))) := by
  simp [txStep, hdraining, hready, loadByte, hadmitted]

theorem hwTxReady_line (s : State) (c : Chan) : (hwTxReady s c).2.line c =
    { s.line c with txReady := (draw (Config.freeTxReady c) (s.line c).txReady).2 } := by
  simp [hwTxReady]

/-- HwTxReady takes one answer of its own kind and none of the others (R17). -/
theorem lineUses_hwTxReady (s : State) (c : Chan) :
    lineUses (hwTxReady s c).2 c = ((lineUses s c).1 + 1, (lineUses s c).2.1, (lineUses s c).2.2) := by
  simp [lineUses, hwTxReady_line]

/-- The first byte HwRead gives after HwRxReady is the line's next one: the two kinds of answer are apart (R17). -/
theorem hwRead_hwRxReady_fst (s : State) (c : Chan) :
    (hwRead (hwRxReady s c).2 c).1 = (draw (Config.freeRead c) (s.line c).read).1 := by
  simp [hwRead, hwRxReady]

/-- From `s` to `t` nothing changed that the receive half of a POLL of `c` reads of the slot, memory, P_MEM_OK or the line. -/
structure SameReceive (c : Chan) (s t : State) : Prop where
  params  : t.params = s.params
  mem     : t.mem = s.mem
  rx      : t.rx c = s.rx c
  rxReady : (t.line c).rxReady = (s.line c).rxReady
  read    : (t.line c).read = (s.line c).read

namespace SameReceive

variable {c : Chan} {s t : State} (h : SameReceive c s t)
include h

theorem hwRxReady_fst : (hwRxReady t c).1 = (hwRxReady s c).1 := by
  simp only [hwRxReady, h.rxReady]

theorem hwRead_fst : (hwRead (hwRxReady t c).2 c).1 = (hwRead (hwRxReady s c).2 c).1 := by
  rw [hwRead_hwRxReady_fst, hwRead_hwRxReady_fst, h.read]

end SameReceive

theorem hwTxReady_sameReceive (s : State) (c : Chan) : SameReceive c s (hwTxReady s c).2 :=
  ⟨rfl, rfl, rfl, by rw [hwTxReady_line], by rw [hwTxReady_line]⟩

/-- The transmit half leaves the receive half everything as it was (R300). -/
theorem txStep_sameReceive (s : State) (c : Chan) : SameReceive c s (txStep s c).state := by
  have hasked := hwTxReady_sameReceive s c
  obtain ⟨-, h⟩ | ⟨-, -, h⟩ | ⟨-, -, -, h⟩ | ⟨-, -, -, h⟩ := txStep_cases s c <;> rw [h]
  · exact ⟨rfl, rfl, rfl, rfl, rfl⟩
  · exact hasked
  · exact hasked
  · exact { hasked with rx := setTx_rx _ c c _ }

/-- The transmit half goes on when its byte, if it has one to send, is admitted (R203). -/
theorem txStep_going {s : State} {c : Chan}
    (hadmitted : (s.tx c).state = .draining → memOk s.params ⟨.read, (s.tx c).curAddr⟩ = true) :
    ∃ s1, txStep s c = .going s1 := by
  obtain ⟨-, h⟩ | ⟨-, -, h⟩ | ⟨hdraining, -, hrefused, -⟩ | ⟨-, -, -, h⟩ := txStep_cases s c
  · exact ⟨_, h⟩
  · exact ⟨_, h⟩
  · nomatch (hadmitted hdraining).symm.trans hrefused
  · exact ⟨_, h⟩

/-- The receive half stops on the store of an accepted byte that is refused (R251, R81). -/
theorem rxStep_of_refused {s : State} {c : Chan} {t : Timestamp} (harmed : (s.rx c).state = .armed)
    (hready : (hwRxReady s c).1 = true) (hclean : (hwRead (hwRxReady s c).2 c).1.2 = false)
    (hrefused : memOk s.params ⟨.write, (s.rx c).buf + (s.rx c).idx⟩ = false) :
    rxStep s c t = .hung (afterLine s c) ⟨.write, (s.rx c).buf + (s.rx c).idx⟩ := by
  obtain ⟨hnone, -⟩ | ⟨b, -, hadmitted, -⟩ | ⟨b, -, -, h⟩ := rxStep_cases s c t
  · simp [acceptedByte, harmed, hready, hclean] at hnone
  · nomatch hrefused.symm.trans hadmitted
  · exact h

/-- Settles O47: the transmit half hangs on its byte, or it goes on and the receive half, which finds the slot and the line
as the POLL did, hangs on its store. -/
theorem pollIsStuckOnARefusedAccess : Obligations.PollIsStuckOnARefusedAccess := by
  intro s c sec ns hns
  refine ⟨fun hdraining hready hrefused => ?_, fun harmed hready hclean hadmitted hrefused => ?_⟩
  · have hpoll := pollBoth_of_hung ⟨sec, ns⟩ (txStep_of_refused hdraining hready hrefused)
    refine ⟨(hwTxReady s c).2.hang ⟨.read, (s.tx c).curAddr⟩, ?_, rfl, rfl, rfl, rfl, rfl, lineUses_hwTxReady s c⟩
    exact (execPoll_of_valid hns).trans (by rw [hpoll, conclude_hung])
  · obtain ⟨s1, htx⟩ := txStep_going hadmitted
    have hsame := txStep_sameReceive s c
    rw [htx] at hsame
    change SameReceive c s s1 at hsame
    have hrx : rxStep s1 c ⟨sec, ns⟩ = .hung (afterLine s1 c) ⟨.write, (s.rx c).buf + (s.rx c).idx⟩ := by
      rw [← hsame.rx]
      refine rxStep_of_refused ?_ ?_ ?_ ?_
      · rw [hsame.rx, harmed]
      · rw [hsame.hwRxReady_fst, hready]
      · rw [hsame.hwRead_fst, hclean]
      · rw [hsame.rx, hsame.params, hrefused]
    obtain ⟨ls, hline⟩ := afterLine_eq s1 c
    refine ⟨(afterLine s1 c).hang ⟨.write, (s.rx c).buf + (s.rx c).idx⟩, ?_, rfl, rfl, ?_, ?_, fun hdraining htxready => ?_⟩
    · exact (execPoll_of_valid hns).trans (by rw [pollBoth_of_going _ htx, hrx, conclude_hung])
    · rw [hline]; exact hsame.rx
    · rw [hline]; exact hsame.mem
    · cases htx.symm.trans (txStep_of_admitted hdraining htxready (hadmitted hdraining))
      rw [hline]
      exact ⟨(setTx_tx _ c c _).trans (if_pos rfl), (hwWrite_log _ c c _).trans (if_pos rfl)⟩

/-! ## Turns around a stuck command, and the host's own store -/

/-- The first case of `hostTurn_cases`: a stuck command has no step (R81). -/
theorem hostTurn_of_stuck {s : State} {a : Access} (h : s.stuck = some a) : hostTurn s = .fault (.stuck a) := by
  simp only [hostTurn, h]

/-- Settles O10: the queued turn is taken on a state that is stuck on the same access. -/
theorem stuckCommandHasNoStep : Obligations.StuckCommandHasNoStep := by
  intro s ts a hstuck
  refine ⟨fun hhost => ?_, fun htick => ?_⟩
  · calc step s
        = hostTurn { s with turns := ⟨ts, s.turns.taken + 1⟩ } := step_of_turn_queue hhost
      _ = .fault (.stuck a) := hostTurn_of_stuck hstuck
  · exact ⟨takeTick { s with turns := ⟨ts, s.turns.taken + 1⟩ }, step_of_turn_queue htick, hstuck, rfl⟩

/-- Settles O11: the host's act is the store, and a write to canonical memory is read back there and nowhere else. -/
theorem hostStoreIsSeen : Obligations.HostStoreIsSeen := by
  intro s ts as a b hwf hfree hturn hact
  have hread := memRead_memWrite hwf a.toNat b
  refine ⟨{ s with turns := ⟨ts, s.turns.taken + 1⟩, host := ⟨as, s.host.taken + 1⟩, mem := memWrite s.mem a.toNat b },
    ?_, (hread a.toNat).trans (if_pos rfl), fun x hx => (hread x).trans (if_neg hx), rfl⟩
  calc step s
      = hostTurn { s with turns := ⟨ts, s.turns.taken + 1⟩ } := step_of_turn_queue hturn
    _ = hostAct (.store a b) { s with turns := ⟨ts, s.turns.taken + 1⟩, host := ⟨as, s.host.taken + 1⟩ } :=
        hostTurn_of_host_queue (s := { s with turns := ⟨ts, s.turns.taken + 1⟩ }) hfree hact
    _ = .next (storeByte { s with turns := ⟨ts, s.turns.taken + 1⟩, host := ⟨as, s.host.taken + 1⟩ } a b) := rfl

end Sys2Proof.Machine
end

section
/-! The decoder and the encoder (R110 to R116, R120): decoding is legal fields plus assembled operands, and the three fields
spell the word. O1, O2, O3, O4, O5, O7. -/

namespace Sys2Proof.Machine

open Sys2Proof Sys2Proof.Laws.WordForm

/-! ## The fields of a command word (R111) -/

theorem rsvField_toNat (w : Word) : (rsvField w).toNat = w.toNat / 4096 := by
  rw [rsvField, BitVec.extractLsb'_toNat, Nat.shiftRight_eq_div_pow]
  exact Nat.mod_eq_of_lt (by omega)

theorem chField_val (w : Word) : (chField w).val = w.toNat / 256 % 16 := by
  exact (BitVec.extractLsb'_toNat ..).trans (by rw [Nat.shiftRight_eq_div_pow])

theorem opcField_toNat (w : Word) : (opcField w).toNat = w.toNat % 256 := by
  rw [opcField, BitVec.extractLsb'_toNat, Nat.shiftRight_zero]

/-- The three fields make up the whole word. -/
theorem word_ext {v w : Word} (hrsv : rsvField v = rsvField w) (hopc : opcField v = opcField w)
    (hch : chField v = chField w) : v = w := by
  have hr := congrArg BitVec.toNat hrsv
  have ho := congrArg BitVec.toNat hopc
  have hc := congrArg Fin.val hch
  rw [rsvField_toNat, rsvField_toNat] at hr
  rw [opcField_toNat, opcField_toNat] at ho
  rw [chField_val, chField_val] at hc
  exact BitVec.eq_of_toNat_eq (by omega)

/-! ## Operations and instructions -/

theorem opOf_eq_some_iff {opc : BitVec 8} {o : Op} : opOf opc = some o ↔ opcOf o = opc := by
  constructor
  · intro h
    exact eq_of_beq (List.find?_some (p := fun o => opcOf o == opc) h)
  · rintro rfl
    cases o <;> decide

theorem assemble_op (o : Op) (c : Chan) (k : Command) : (assemble o c k).op = o := by
  cases o <;> rfl

/-- An operation takes its operands from the first words, as many as R113 says, and from no others. -/
theorem assemble_eq_assemble_iff {o : Op} {c : Chan} {k k' : Command} :
    assemble o c k' = assemble o c k ↔ k'.operands.take o.arity = k.operands.take o.arity := by
  cases o <;> simp [assemble, Op.arity, Command.operands]

theorem assemble_encode (i : Instr) : assemble i.op (i.chan.getD 0) (encode i) = i := by
  cases i <;> rfl

theorem encode_word (i : Instr) : (encode i).word = commandWord i.op (i.chan.getD 0) := by
  cases i <;> rfl

theorem isClock_op (i : Instr) : isClock i.op = i.chan.isNone := by
  cases i <;> rfl

theorem wf_iff {nchan : Nat} {i : Instr} : i.wf nchan = true ↔ ∀ c, i.chan = some c → c.val < nchan := by
  cases h : i.chan <;> simp [Instr.wf, h]

/-! ## What decodes (R116) -/

/-- On a word that R111 spells, the decoder has the two channel checks left. -/
theorem decode_of_word {nchan : Nat} {k : Command} {o : Op} {c : Chan} (hw : k.word = commandWord o c) :
    decode nchan k =
      if isClock o = true ∧ c ≠ 0 then .error .clockChannel
      else if isClock o = false ∧ nchan ≤ c.val then .error .noSuchChannel
      else .ok (assemble o c k) := by
  obtain ⟨hrsv, hopc, hch⟩ := fields_of_commandWord o c
  simp only [decode, hw, hrsv, hch, opOf_eq_some_iff.mpr hopc.symm]
  exact if_neg (not_not.mpr rfl)

theorem decode_ok_of_word {nchan : Nat} {k : Command} {o : Op} {c : Chan} (hw : k.word = commandWord o c)
    (hclock : isClock o = true → c = 0) (hchannel : isClock o = false → c.val < nchan) :
    decode nchan k = .ok (assemble o c k) := by
  rw [decode_of_word hw, if_neg fun h => h.2 (hclock h.1), if_neg fun h => Nat.not_le.mpr (hchannel h.1) h.2]

/-- The word passes the four checks of R116 as operation `o`. -/
structure LegalWord (nchan : Nat) (w : Word) (o : Op) : Prop where
  rsv     : rsvField w = 0
  opc     : opcOf o = opcField w
  clock   : isClock o = true → chField w = 0
  channel : isClock o = false → (chField w).val < nchan

namespace LegalWord

/-- A legal word is the one R111 spells for its operation and channel. -/
theorem eq_commandWord {nchan : Nat} {w : Word} {o : Op} (h : LegalWord nchan w o) : w = commandWord o (chField w) := by
  obtain ⟨hrsv, hopc, hch⟩ := fields_of_commandWord o (chField w)
  exact word_ext (h.rsv.trans hrsv.symm) (h.opc.symm.trans hopc.symm) hch.symm

theorem commandWord {nchan : Nat} {o : Op} {c : Chan} (hclock : isClock o = true → c = 0)
    (hchannel : isClock o = false → c.val < nchan) : LegalWord nchan (commandWord o c) o := by
  obtain ⟨hrsv, hopc, hch⟩ := fields_of_commandWord o c
  exact ⟨hrsv, hopc.symm, by rwa [hch], by rwa [hch]⟩

theorem encode {nchan : Nat} {i : Instr} (hwf : i.wf nchan = true) : LegalWord nchan (encode i).word i.op := by
  have hclock := isClock_op i
  rw [encode_word]
  cases hc : i.chan with
  | none =>
    rw [hc] at hclock
    exact .commandWord (fun _ => rfl) (fun h => nomatch hclock.symm.trans h)
  | some c =>
    rw [hc] at hclock
    exact .commandWord (fun h => nomatch hclock.symm.trans h) (fun _ => wf_iff.mp hwf c hc)

/-- The channel of the assembled instruction is that of the word: a clock command's CH is 0. -/
theorem assemble_chan_getD {nchan : Nat} {w : Word} {o : Op} (h : LegalWord nchan w o) (k : Command) :
    (assemble o (chField w) k).chan.getD 0 = chField w := by
  rw [assemble_chan]
  cases hc : isClock o
  · rfl
  · exact (h.clock hc).symm

end LegalWord

/-- A command decodes when its word is legal, and to the instruction that takes its operands. -/
theorem decode_eq_ok_iff {nchan : Nat} {k : Command} {i : Instr} :
    decode nchan k = .ok i ↔ ∃ o, LegalWord nchan k.word o ∧ assemble o (chField k.word) k = i := by
  constructor
  · intro h
    unfold decode at h
    split at h
    · nomatch h
    next hrsv =>
    split at h
    · nomatch h
    next o ho =>
    split at h
    · nomatch h
    next hclock =>
    split at h
    · nomatch h
    next hchannel =>
      exact ⟨o, ⟨not_not.mp hrsv, opOf_eq_some_iff.mp ho, fun hc => not_not.mp fun h0 => hclock ⟨hc, h0⟩,
        fun hc => Nat.not_le.mp fun hle => hchannel ⟨hc, hle⟩⟩, Except.ok.inj h⟩
  · rintro ⟨o, hlegal, rfl⟩
    exact decode_ok_of_word hlegal.eq_commandWord hlegal.clock hlegal.channel

/-- Settles O1: the encoded word is legal, its CH field is the channel, and the operands are taken back. -/
theorem decodeEncodeRoundTrip : Obligations.DecodeEncodeRoundTrip := by
  intro nchan i hwf
  have hchan : chField (encode i).word = i.chan.getD 0 := by
    rw [encode_word]
    exact (fields_of_commandWord _ _).2.2
  exact decode_eq_ok_iff.mpr ⟨i.op, .encode hwf, hchan ▸ assemble_encode i⟩

/-- Settles O2: the word is legal, and a legal word is the one its operation and channel spell. -/
theorem decodedWordIsTheEncodedWord : Obligations.DecodedWordIsTheEncodedWord := by
  intro nchan k i h
  refine ⟨?_, wf_iff.mpr fun c hc => decode_chan_lt h hc⟩
  obtain ⟨o, hlegal, rfl⟩ := decode_eq_ok_iff.mp h
  rw [encode_word, assemble_op, hlegal.assemble_chan_getD]
  exact hlegal.eq_commandWord.symm

/-- Settles O3: the same word has the same operation and channel, and then only the operands taken matter. -/
theorem unusedOperandWordsAreIgnored : Obligations.UnusedOperandWordsAreIgnored := by
  refine ⟨fun nchan k k' i h hword hoperands => ?_, fun nchan k k' i h h' => ?_⟩
  · obtain ⟨o, hlegal, rfl⟩ := decode_eq_ok_iff.mp h
    rw [assemble_op] at hoperands
    rw [← hword] at hlegal ⊢
    exact decode_eq_ok_iff.mpr ⟨o, hlegal, assemble_eq_assemble_iff.mpr hoperands⟩
  · have hword : k'.word = k.word :=
      (decodedWordIsTheEncodedWord nchan k' i h').1.symm.trans (decodedWordIsTheEncodedWord nchan k i h).1
    obtain ⟨o, -, rfl⟩ := decode_eq_ok_iff.mp h
    obtain ⟨o', -, heq⟩ := decode_eq_ok_iff.mp h'
    obtain rfl : o' = o := by rw [← assemble_op o' (chField k'.word) k', heq, assemble_op]
    rw [hword] at heq
    rw [assemble_op]
    exact assemble_eq_assemble_iff.mp heq

/-! ## What does not decode (R116) -/

theorem decode_eq_error_iff {nchan : Nat} {k : Command} :
    (∃ e, decode nchan k = .error e) ↔ ¬ ∃ o, LegalWord nchan k.word o := by
  constructor
  · rintro ⟨e, he⟩ ⟨o, hlegal⟩
    nomatch he.symm.trans (decode_eq_ok_iff.mpr ⟨o, hlegal, rfl⟩)
  · intro h
    cases hd : decode nchan k with
    | error e => exact ⟨e, rfl⟩
    | ok i =>
      obtain ⟨o, hlegal, -⟩ := decode_eq_ok_iff.mp hd
      exact absurd ⟨o, hlegal⟩ h

/-- The clock family has the OPC values up to 0x06, the channel families those from 0x10 (R112). -/
theorem isClock_iff_opcOf (o : Op) :
    (isClock o = true ↔ (opcOf o).toNat ≤ 0x06) ∧ (isClock o = false ↔ 0x10 ≤ (opcOf o).toNat) := by
  cases o <;> decide

/-- The opcode map holds every operation (R112). -/
theorem mem_opcodeMap (o : Op) : o ∈ opcodeMap := by
  cases o <;> decide

/-- A legal word as a number. -/
theorem exists_legalWord_iff {nchan : Nat} {w : Word} : (∃ o, LegalWord nchan w o) ↔
    w.toNat / 4096 = 0 ∧ w.toNat % 256 ∈ opcodeMap.map (fun o => (opcOf o).toNat) ∧
      (w.toNat % 256 ≤ 0x06 → w.toNat / 256 % 16 = 0) ∧ (0x10 ≤ w.toNat % 256 → w.toNat / 256 % 16 < nchan) := by
  rw [← rsvField_toNat, ← opcField_toNat, ← chField_val]
  constructor
  · rintro ⟨o, hrsv, hopc, hclock, hchannel⟩
    obtain ⟨hc, hn⟩ := isClock_iff_opcOf o
    rw [← hopc, ← hc, ← hn]
    exact ⟨congrArg BitVec.toNat hrsv, List.mem_map_of_mem (mem_opcodeMap o), fun h => congrArg Fin.val (hclock h), hchannel⟩
  · rintro ⟨hrsv, hopc, hclock, hchannel⟩
    obtain ⟨o, -, ho⟩ := List.mem_map.mp hopc
    obtain ⟨hc, hn⟩ := isClock_iff_opcOf o
    rw [← ho, ← hc] at hclock
    rw [← ho, ← hn] at hchannel
    exact ⟨o, BitVec.eq_of_toNat_eq hrsv, BitVec.eq_of_toNat_eq ho, fun h => Fin.ext (hclock h), hchannel⟩

/-- Settles O4: a word is illegal when one of the four checks on its number fails. -/
theorem illegalWordsAreExactlyTheseFour : Obligations.IllegalWordsAreExactlyTheseFour := by
  intro nchan k
  rw [decode_eq_error_iff, exists_legalWord_iff]
  simp only [not_and_or, Classical.not_imp, not_lt]
  exact Iff.rfl

/-! ## The quick-reference words (R120) -/

theorem ch3_clock_words : ([0x00000301, 0x00000302, 0x00000303, 0x00000304, 0x00000305, 0x00000306] : List Word) =
    (opcodeMap.filter isClock).map (commandWord · 3) := by
  decide

theorem ch3_channel_words :
    ([0x00000310, 0x00000311, 0x00000312, 0x00000320, 0x00000321, 0x00000322, 0x00000323, 0x00000330] : List Word) =
      (opcodeMap.filter (!isClock ·)).map (commandWord · 3) := by
  decide

/-- Settles O5: each word of the table is spelled by an operation and a channel, and the operation's family decides. -/
theorem specWordsDecode : Obligations.SpecWordsDecode := by
  refine ⟨fun a b c d => ?_, fun a b c d => ?_, fun nchan hn a b c d => ?_⟩
  · have ch0 (o : Op) : decode 4 ⟨commandWord o 0, a, b, c, d⟩ = .ok (assemble o 0 ⟨commandWord o 0, a, b, c, d⟩) :=
      decode_ok_of_word rfl (fun _ => rfl) (fun _ => by decide)
    have ch3 (o : Op) (h : isClock o = false) :
        decode 4 ⟨commandWord o 3, a, b, c, d⟩ = .ok (assemble o 3 ⟨commandWord o 3, a, b, c, d⟩) :=
      decode_ok_of_word rfl (fun hc => nomatch h.symm.trans hc) (fun _ => by decide)
    exact ⟨ch0 .now, ch0 .hrnow, ch0 .delta, ch0 .cmp, ch0 .norm, ch0 .clkrd,
      ch0 .send, ch3 .send rfl, ch0 .txabort, ch3 .txabort rfl, ch0 .txbusy, ch3 .txbusy rfl,
      ch0 .recv, ch3 .recv rfl, ch0 .rxabort, ch3 .rxabort rfl, ch0 .rxbusy, ch3 .rxbusy rfl,
      ch0 .rxstat, ch3 .rxstat rfl, ch0 .poll, ch3 .poll rfl⟩
  · rw [ch3_clock_words, List.forall_mem_map]
    intro o ho
    have hclock := (List.mem_filter.mp ho).2
    rw [decode_of_word rfl, if_pos ⟨hclock, by decide⟩]
  · rw [ch3_channel_words, List.forall_mem_map]
    intro o ho
    have hclock : isClock o = false := by simpa using (List.mem_filter.mp ho).2
    rw [decode_of_word rfl, if_neg (by simp [hclock]), if_pos ⟨hclock, Nat.le_of_lt_succ hn⟩]

/-! ## The turn of an illegal word (R116, R334) -/

/-- Settles O7: the queued act presents the command, and its word does not decode. -/
theorem stepAnswersIllegalWords : Obligations.StepAnswersIllegalWords := by
  intro s ts as k e hfree hturn hact hdecode
  calc step s
      = hostTurn { s with turns := ⟨ts, s.turns.taken + 1⟩ } := step_of_turn_queue hturn
    _ = present k { s with turns := ⟨ts, s.turns.taken + 1⟩, host := ⟨as, s.host.taken + 1⟩ } :=
        hostTurn_of_host_queue (s := { s with turns := ⟨ts, s.turns.taken + 1⟩ }) hfree hact
    _ = .next (State.ret { s with turns := ⟨ts, s.turns.taken + 1⟩, host := ⟨as, s.host.taken + 1⟩ } .illegal 0 0) :=
        present_of_decode_error hdecode
    _ = .next { s with
          turns := ⟨ts, s.turns.taken + 1⟩, host := ⟨as, s.host.taken + 1⟩, resp := some ⟨.illegal, 0, 0, 0⟩ } := by
        rw [hfree.1]; rfl

end Sys2Proof.Machine
end

section
/-! The clock family (40_clock.md). Timestamps as numbers modulo the wrap period (R150, R151, R162, R167), comparison as
that of numbers (R164), and TICKs around a command in progress (R152, R156, R159): O8, O12, O13, O15 to O25. -/

namespace Sys2Proof.Machine

open Sys2Proof

/-! ## Normalization (R151) -/

theorem normalize_of_lt {s : Word} {n : Nat} (h : n < nsPerS) : normalize s n = ⟨s, BitVec.ofNat 32 n⟩ := by
  simp [normalize, Nat.div_eq_of_lt h, Nat.mod_eq_of_lt h]

/-- One round of the loop of R151 leaves the closed form as it is. -/
theorem normalize_carry {s : Word} {n : Nat} (h : nsPerS ≤ n) : normalize (s + 1) (n - nsPerS) = normalize s n := by
  have hdiv : n / nsPerS = 1 + (n - nsPerS) / nsPerS := by
    rw [Nat.div_eq_sub_div (by decide) h, Nat.add_comm]
  have hmod : n % nsPerS = (n - nsPerS) % nsPerS := Nat.mod_eq_sub_mod h
  simp only [normalize, hdiv, hmod, BitVec.ofNat_add, BitVec.add_assoc]
  rfl

/-- The loop reaches the closed form when its rounds suffice for the seconds to carry. -/
theorem normalizeLoop_eq_normalize {fuel : Nat} {s : Word} {n : Nat} (h : n < (fuel + 1) * nsPerS) :
    normalizeLoop fuel s n = normalize s n := by
  induction fuel generalizing s n with
  | zero => exact (normalize_of_lt (by omega)).symm
  | succ f ih =>
    unfold normalizeLoop
    split
    next hge => rw [ih (by simp only [nsPerS] at *; omega), normalize_carry hge]
    next hlt => exact (normalize_of_lt (Nat.lt_of_not_le hlt)).symm

/-- Settles O15: nine rounds carry up to nine seconds, and 2^33 nanoseconds are fewer than ten. -/
theorem normalizeLoopAgreesWithItsClosedForm : Obligations.NormalizeLoopAgreesWithItsClosedForm :=
  fun s n h => ⟨normalizeLoop_eq_normalize (by simp only [nsPerS]; omega), normalize_valid s n⟩

/-! ## Timestamps as numbers (R150) -/

/-- The number whose digits to base `n` are the seconds and the nanoseconds. -/
def tsNumber (n : Nat) (t : Timestamp) : Nat := t.sec.toNat * n + t.ns.toNat

theorem tsValue_eq_tsNumber (t : Timestamp) : tsValue t = tsNumber nsPerS t := rfl

/-- A timestamp is determined by its number to a base above its nanoseconds. -/
theorem tsNumber_inj {n : Nat} {a b : Timestamp} (ha : a.ns.toNat < n) (hb : b.ns.toNat < n) :
    tsNumber n a = tsNumber n b ↔ a = b := by
  refine ⟨fun h => ?_, congrArg (tsNumber n)⟩
  obtain ⟨asec, ans⟩ := a
  obtain ⟨bsec, bns⟩ := b
  simp only [tsNumber] at ha hb h
  have hns : ans.toNat = bns.toNat := by
    simpa only [Nat.mul_add_mod_of_lt ha, Nat.mul_add_mod_of_lt hb] using congrArg (· % n) h
  have hsec : asec.toNat = bsec.toNat :=
    Nat.eq_of_mul_eq_mul_right (Nat.zero_lt_of_lt ha) (Nat.add_right_cancel (hns ▸ h))
  rw [BitVec.eq_of_toNat_eq hsec, BitVec.eq_of_toNat_eq hns]

theorem eq_of_tsValue_eq {a b : Timestamp} (ha : tsValid a) (hb : tsValid b) (h : tsValue a = tsValue b) : a = b := by
  rwa [tsValue_eq_tsNumber, tsValue_eq_tsNumber, tsNumber_inj ha hb] at h

theorem tsValue_normalize (s : Word) (n : Nat) : tsValue (normalize s n) = (s.toNat * nsPerS + n) % wrapPeriod := by
  simp only [tsValue, normalize_sec, normalize_ns, nsPerS, wrapPeriod]
  omega

/-- A number of nanoseconds split into words of seconds and nanoseconds (R151, R167). -/
theorem tsValue_quot_rem (n : Nat) :
    tsValue ⟨BitVec.ofNat 32 (n / nsPerS), BitVec.ofNat 32 (n % nsPerS)⟩ = n % wrapPeriod := by
  simp only [tsValue, BitVec.toNat_ofNat, nsPerS, wrapPeriod]
  omega

theorem tsValue_lt {t : Timestamp} (h : tsValid t) : tsValue t < wrapPeriod := by
  have hsec := t.sec.isLt
  simp only [tsValid, tsValue, nsPerS, wrapPeriod] at *
  omega

theorem tsadd_valid (b d : Timestamp) : tsValid (tsadd b d) := normalize_valid _ _

/-- `tsadd` is addition modulo the wrap period (R167). -/
theorem tsValue_tsadd (b d : Timestamp) : tsValue (tsadd b d) = (tsValue b + tsValue d) % wrapPeriod := by
  rw [tsadd, tsValue_normalize]
  simp only [tsValue, BitVec.toNat_add, nsPerS, wrapPeriod]
  omega

/-! ## Subtraction (R162) -/

/-- Both branches of R162 are u32(a.sec - b.sec - borrow). -/
theorem tsdelta_eq (a b : Timestamp) :
    tsdelta a b = ⟨a.sec - b.sec - BitVec.ofNat 32 (deltaNs a b).2, BitVec.ofNat 32 (deltaNs a b).1⟩ := by
  unfold tsdelta
  split
  all_goals
    refine congrArg (Timestamp.mk · _) (BitVec.eq_of_toNat_eq ?_)
    simp only [BitVec.toNat_ofInt, BitVec.toNat_sub, BitVec.toNat_ofNat]
    omega

/-- Both branches are one normalization: borrow a second always, and let R151 give it back where it was not needed. -/
theorem tsdelta_eq_normalize {a b : Timestamp} (ha : tsValid a) (hb : tsValid b) :
    tsdelta a b = normalize (a.sec - b.sec - 1) (a.ns.toNat + nsPerS - b.ns.toNat) := by
  simp only [tsValid] at ha hb
  have hround : a.sec - b.sec - 1 + 1 = a.sec - b.sec := BitVec.sub_add_cancel _ _
  rw [tsdelta_eq]
  obtain ⟨hle, hdelta⟩ | ⟨hlt, hdelta⟩ := deltaNs_cases a b <;> rw [hdelta]
  · have hns : a.ns.toNat + nsPerS - b.ns.toNat - nsPerS = a.ns.toNat - b.ns.toNat := by omega
    rw [← normalize_carry (by omega), hround, hns, normalize_of_lt (by omega)]
    exact congrArg (Timestamp.mk · _) (BitVec.sub_zero _)
  · rw [normalize_of_lt (by omega)]
    rfl

theorem tsdelta_valid {a b : Timestamp} (ha : tsValid a) (hb : tsValid b) : tsValid (tsdelta a b) := by
  rw [tsdelta_eq_normalize ha hb]
  exact normalize_valid _ _

/-- `tsdelta` is subtraction modulo the wrap period (R162). -/
theorem tsValue_tsdelta {a b : Timestamp} (ha : tsValid a) (hb : tsValid b) :
    tsValue (tsdelta a b) = (tsValue a + wrapPeriod - tsValue b) % wrapPeriod := by
  rw [tsdelta_eq_normalize ha hb, tsValue_normalize]
  simp only [tsValid, tsValue, BitVec.toNat_sub, nsPerS, wrapPeriod] at *
  have hsec := b.sec.isLt
  have h1 : (1 : Word).toNat = 1 := rfl
  omega

/-- Settles O17: each side is valid, and has the value of the other. -/
theorem deltaUndoesAddition : Obligations.DeltaUndoesAddition := by
  intro b d hb hd
  have hb' := tsValue_lt hb
  have hd' := tsValue_lt hd
  simp only [wrapPeriod, nsPerS] at hb' hd'
  constructor
  · apply eq_of_tsValue_eq (tsdelta_valid hb hb) (by decide)
    rw [tsValue_tsdelta hb hb, show tsValue ⟨0, 0⟩ = 0 from rfl]
    simp only [wrapPeriod, nsPerS]
    omega
  · apply eq_of_tsValue_eq (tsdelta_valid (tsadd_valid b d) hb) hd
    rw [tsValue_tsdelta (tsadd_valid b d) hb, tsValue_tsadd]
    simp only [wrapPeriod, nsPerS]
    omega

/-! ## Comparison (R164) -/

theorem mul_add_lt_mul_add {n x y p q : Nat} (hxy : x < y) (hp : p < n) : x * n + p < y * n + q := by
  calc x * n + p < x * n + n := Nat.add_lt_add_left hp _
    _ = (x + 1) * n := (Nat.succ_mul x n).symm
    _ ≤ y * n := Nat.mul_le_mul_right n hxy
    _ ≤ y * n + q := Nat.le_add_right _ _

/-- The lexicographic order is that of the numbers to any base above the nanoseconds. -/
theorem tscmp_eq_compare {n : Nat} {a b : Timestamp} (ha : a.ns.toNat < n) (hb : b.ns.toNat < n) :
    tscmp a b = compare (tsNumber n a) (tsNumber n b) := by
  unfold tscmp tsNumber
  split
  next hlt => exact (Nat.compare_eq_lt.mpr (mul_add_lt_mul_add hlt ha)).symm
  split
  next hgt => exact (Nat.compare_eq_gt.mpr (mul_add_lt_mul_add hgt hb)).symm
  next hge hle =>
    rw [show a.sec.toNat = b.sec.toNat by omega]
    split
    next hlt => exact (Nat.compare_eq_lt.mpr (by omega)).symm
    split
    next hgt => exact (Nat.compare_eq_gt.mpr (by omega)).symm
    next => exact (Nat.compare_eq_eq.mpr (by omega)).symm

/-- Of valid timestamps it is the order of their values. -/
theorem tscmp_eq_compare_tsValue {a b : Timestamp} (ha : tsValid a) (hb : tsValid b) :
    tscmp a b = compare (tsValue a) (tsValue b) := by
  rw [tsValue_eq_tsNumber, tsValue_eq_tsNumber, tscmp_eq_compare ha hb]

/-- Of any two timestamps, valid or not: base 2^32 is above every nanosecond word. -/
theorem tscmp_eq_compare_words (a b : Timestamp) : tscmp a b = compare (tsNumber (2 ^ 32) a) (tsNumber (2 ^ 32) b) :=
  tscmp_eq_compare a.ns.isLt b.ns.isLt

/-- Settles O18: it is the order of the numbers to base 2^32. -/
theorem compareIsATotalOrder : Obligations.CompareIsATotalOrder := by
  intro a b c
  simp only [tscmp_eq_compare_words]
  refine ⟨?_, ?_, ?_⟩
  · rw [Nat.compare_eq_eq, tsNumber_inj a.ns.isLt b.ns.isLt]
  · rw [Nat.compare_eq_gt, Nat.compare_eq_lt]
  · simp only [Nat.compare_ne_gt]
    exact Nat.le_trans

/-! ## The commands on timestamp operands (R163, R165, R166) -/

theorem execDelta_of_valid {a b : Timestamp} (ha : tsValid a) (hb : tsValid b) (s : State) :
    execDelta a.sec a.ns b.sec b.ns s = .next (s.ret .ok (tsdelta a b).sec (tsdelta a b).ns) := by
  simp only [execDelta, tsOperand_of_valid ha, tsOperand_of_valid hb, retOk_eq]

theorem execCmp_of_valid {a b : Timestamp} (ha : tsValid a) (hb : tsValid b) (s : State) :
    execCmp a.sec a.ns b.sec b.ns s = .next (s.ret .ok (orderCode (tscmp a b)) 0) := by
  simp only [execCmp, tsOperand_of_valid ha, tsOperand_of_valid hb, retOk_eq]

/-- DELTA and CMP take their operands together: unless both are valid, one of them is not read (R115). -/
theorem tsOperand_none_of_invalid {a b : Timestamp} (h : ¬ (tsValid a ∧ tsValid b)) :
    tsOperand a.sec a.ns = none ∨ tsOperand b.sec b.ns = none := by
  obtain ha | hb := not_and_or.mp h
  · exact .inl (tsOperand_of_invalid (Nat.le_of_not_lt ha))
  · exact .inr (tsOperand_of_invalid (Nat.le_of_not_lt hb))

theorem execDelta_of_invalid {a b : Timestamp} (h : ¬ (tsValid a ∧ tsValid b)) (s : State) :
    execDelta a.sec a.ns b.sec b.ns s = .next (s.ret .illegal 0 0) := by
  obtain h | h := tsOperand_none_of_invalid h <;> simp [execDelta, h]

theorem execCmp_of_invalid {a b : Timestamp} (h : ¬ (tsValid a ∧ tsValid b)) (s : State) :
    execCmp a.sec a.ns b.sec b.ns s = .next (s.ret .illegal 0 0) := by
  obtain h | h := tsOperand_none_of_invalid h <;> simp [execCmp, h]

/-- Settles O16: the difference is that of `tsdelta`. -/
theorem deltaSubtractsModuloTheWrapPeriod : Obligations.DeltaSubtractsModuloTheWrapPeriod := by
  refine fun s a b => ⟨fun ⟨ha, hb⟩ => ?_, fun h => execDelta_of_invalid h s⟩
  exact ⟨tsdelta a b, execDelta_of_valid ha hb s, tsdelta_valid ha hb, tsValue_tsdelta ha hb⟩

/-- The comparison of two numbers as CMP spells it (R165). -/
theorem orderCode_compare (x y : Nat) : orderCode (compare x y) = if x < y then 0 else if x = y then 1 else 2 := by
  obtain h | h | h := Nat.lt_trichotomy x y
  · rw [Nat.compare_eq_lt.mpr h, if_pos h, orderCode]
  · rw [Nat.compare_eq_eq.mpr h, if_neg (by omega), if_pos h, orderCode]
  · rw [Nat.compare_eq_gt.mpr h, if_neg (by omega), if_neg (by omega), orderCode]

/-- Settles O19: it is the order of the values, spelled as a number. -/
theorem cmpComparesTimestampValues : Obligations.CmpComparesTimestampValues := by
  refine fun s a b => ⟨fun ⟨ha, hb⟩ => ?_, fun h => execCmp_of_invalid h s⟩
  rw [← orderCode_compare, ← tscmp_eq_compare_tsValue ha hb]
  exact execCmp_of_valid ha hb s

/-- Settles O20: NORM returns the normalized pair. -/
theorem normCarriesIntoSeconds : Obligations.NormCarriesIntoSeconds :=
  fun _ sec ns => ⟨_, _, rfl, normalize_sec sec ns.toNat, normalize_ns sec ns.toNat⟩

/-! ## CLKRD (R155) -/

theorem clkOperand_of_ge_three {k : Clock} {sel : Word} (h : 3 ≤ sel.toNat) : clkOperand k sel = none := by
  have h0 : sel ≠ 0 := by rintro rfl; simp at h
  have h1 : sel ≠ 1 := by rintro rfl; simp at h
  have h2 : sel ≠ 2 := by rintro rfl; simp at h
  rw [clkOperand, if_neg h0, if_neg h1, if_neg h2]

/-- Settles O21: the three selectors name a register, and no other does. -/
theorem clkrdReadsOneClockRegister : Obligations.ClkrdReadsOneClockRegister := by
  refine fun s => ⟨rfl, rfl, rfl, fun sel h => ?_⟩
  change execClkrd sel s = _
  simp only [execClkrd, clkOperand_of_ge_three h, retIllegal_eq]

/-! ## TICKs (R152) -/

theorem takeTick_time (s : State) :
    (takeTick s).clk.time = normalize s.clk.sec (s.clk.nsec.toNat + s.params.tickNs) := rfl

theorem takeTick_gen (s : State) : (takeTick s).clk.gen = s.clk.gen + 2 := BitVec.add_assoc s.clk.gen 1 1

theorem tsValue_takeTick (s : State) :
    tsValue (takeTick s).clk.time = (tsValue s.clk.time + s.params.tickNs) % wrapPeriod := by
  rw [takeTick_time, tsValue_normalize, ← Nat.add_assoc]
  rfl

/-- Settles O8: the queued turn is the tick source's. -/
theorem stepTakesTheTick : Obligations.StepTakesTheTick := fun _ _ h => step_of_turn_queue h

/-- Settles O12: the TICK normalizes the sum. -/
theorem tickAddsExactlyOnePeriod : Obligations.TickAddsExactlyOnePeriod :=
  fun s _ _ => ⟨tsValue_takeTick s, normalize_valid _ _, takeTick_gen s, rfl⟩

theorem ticks_eq_iterate (k : Nat) (s : State) : ticks k s = takeTick^[k] s := by
  induction k generalizing s with
  | zero => rfl
  | succ k ih => exact ih (takeTick s)

theorem ticks_ticks (m n : Nat) (s : State) : ticks m (ticks n s) = ticks (n + m) s := by
  simp only [ticks_eq_iterate, Nat.add_comm n m, Function.iterate_add_apply]

/-- What commutes with one TICK commutes with many. -/
theorem ticks_comm {f : State → State} (h : Function.Commute takeTick f) (k : Nat) (s : State) :
    ticks k (f s) = f (ticks k s) := by
  simp only [ticks_eq_iterate]
  exact (h.iterate_left k).eq s

theorem ticks_pause (k : Nat) (s : State) (m : Micro) : ticks k (s.pause m) = (ticks k s).pause m :=
  ticks_comm (f := fun s => s.pause m) (fun _ => rfl) k s

theorem ticks_subTick (k : Nat) (s : State) : ticks k (subTick s).2 = (subTick (ticks k s)).2 :=
  ticks_comm (f := fun s => (subTick s).2) (fun _ => rfl) k s

@[simp] theorem ticks_params (k : Nat) (s : State) : (ticks k s).params = s.params := by
  induction k generalizing s with
  | zero => rfl
  | succ k ih => exact ih (takeTick s)

theorem ticks_gen (k : Nat) (s : State) : (ticks k s).clk.gen = s.clk.gen + BitVec.ofNat 32 (2 * k) := by
  induction k generalizing s with
  | zero => exact (BitVec.add_zero _).symm
  | succ k ih =>
    rw [ticks, ih, takeTick_gen, BitVec.add_assoc, Nat.mul_succ, Nat.add_comm (2 * k), BitVec.ofNat_add]
    rfl

theorem ticks_valid (k : Nat) {s : State} (h : tsValid s.clk.time) : tsValid (ticks k s).clk.time := by
  induction k generalizing s with
  | zero => exact h
  | succ k ih => exact ih (normalize_valid _ _)

theorem tsValue_ticks (k : Nat) {s : State} (h : tsValid s.clk.time) :
    tsValue (ticks k s).clk.time = (tsValue s.clk.time + k * s.params.tickNs) % wrapPeriod := by
  induction k generalizing s with
  | zero => rw [Nat.zero_mul, Nat.add_zero, Nat.mod_eq_of_lt (tsValue_lt h)]; rfl
  | succ k ih =>
    calc tsValue (ticks k (takeTick s)).clk.time
        = (tsValue (takeTick s).clk.time + k * s.params.tickNs) % wrapPeriod := ih (normalize_valid _ _)
      _ = (tsValue s.clk.time + s.params.tickNs + k * s.params.tickNs) % wrapPeriod := by
          rw [tsValue_takeTick, Nat.mod_add_mod]
      _ = (tsValue s.clk.time + (k + 1) * s.params.tickNs) % wrapPeriod := by
          rw [Nat.succ_mul, Nat.add_assoc, Nat.add_comm s.params.tickNs]

/-- Settles O13: both sides are valid and have the value of the clock plus k periods. -/
theorem clockAfterTicks : Obligations.ClockAfterTicks := by
  refine fun k s _ hvalid => ⟨?_, ticks_gen k s⟩
  apply eq_of_tsValue_eq (ticks_valid k hvalid) (tsadd_valid _ _)
  rw [tsValue_ticks k hvalid, tsValue_tsadd, tsValue_quot_rem, Nat.add_mod_mod]

/-! ## Attempts of a reading loop (R156, R159) -/

/-- A read does not look at the progress it replaces. -/
theorem readStep_pause (s : State) (m : Micro) (r : Reader) (p : ReadPhase) :
    readStep (s.pause m) r p = readStep s r p := by
  cases p with
  | gen1 | sec | sub => rfl
  | nsec => cases r <;> rfl
  | gen2 => cases r <;> rfl

theorem microSteps_pause (k : Nat) (s : State) (r : Reader) (p : ReadPhase) :
    microSteps (k + 1) (s.pause (.reading r p)) = microSteps k (readStep s r p) :=
  congrArg (microSteps k) (readStep_pause s _ r p)

/-- After TICKs, a paused loop takes its next read of the clock they left. -/
theorem microSteps_ticks_pause (n : Nat) (s : State) (r : Reader) (p : ReadPhase) :
    microSteps 1 (ticks n (s.pause (.reading r p))) = readStep (ticks n s) r p := by
  rw [ticks_pause, microSteps_pause, microSteps]

theorem samplesSub_ticks (n : Nat) (s : State) (r : Reader) : samplesSub (ticks n s) r = samplesSub s r := by
  cases r <;> simp [samplesSub]

theorem readStep_gen1 (s : State) (r : Reader) : readStep s r .gen1 = s.pause (.reading r (.sec s.clk.gen)) := rfl

theorem readStep_sec (s : State) (r : Reader) (g : Word) :
    readStep s r (.sec g) = s.pause (.reading r (.nsec g s.clk.sec)) := rfl

theorem readStep_sub (s : State) (r : Reader) (g sec ns : Word) :
    readStep s r (.sub g sec ns) = (subTick s).2.pause (.reading r (.gen2 g sec ns (some (subTick s).1))) := rfl

/-- The generation test passes on a clock no TICK has written. -/
theorem genAccepts_self {g : Word} (h : g.toNat % 2 = 0) : genAccepts g g = true := by
  simp [genAccepts, h]

/-- With no TICK inside, a loop without a sub-period reading yields the wall timestamp (R156). -/
theorem undisturbed_without_sub {s : State} {r : Reader} (h : samplesSub s r = false)
    (heven : s.clk.gen.toNat % 2 = 0) :
    microSteps 3 (readStep s r .gen1) = acceptRead s s.clk.time r := by
  rw [readStep_gen1, microSteps_pause, readStep_sec, microSteps_pause, readStep_nsec, h, if_neg Bool.false_ne_true,
    microSteps_pause, readStep_gen2, genAccepts_self heven, if_pos rfl]
  rfl

/-- With no TICK inside, a loop with a sub-period reading adds that reading to the wall timestamp (R159). -/
theorem undisturbed_with_sub {s : State} {r : Reader} (h : samplesSub s r = true) (heven : s.clk.gen.toNat % 2 = 0) :
    microSteps 4 (readStep s r .gen1) =
      acceptRead (subTick s).2 (normalize s.clk.sec (s.clk.nsec.toNat + (subTick s).1.toNat)) r := by
  rw [readStep_gen1, microSteps_pause, readStep_sec, microSteps_pause, readStep_nsec, h, if_pos rfl,
    microSteps_pause, readStep_sub, microSteps_pause, readStep_gen2, subTick_clk, genAccepts_self heven, if_pos rfl]
  rfl

/-- An attempt that takes no sub-period reading, up to its second GEN read. -/
theorem attempt_without_sub {s : State} {r : Reader} (h : samplesSub s r = false) (n1 n2 n3 : Nat) :
    microSteps 1 (ticks n3 (microSteps 1 (ticks n2 (microSteps 1 (ticks n1 (readStep s r .gen1)))))) =
      readStep (ticks (n1 + n2 + n3) s) r
        (.gen2 s.clk.gen (ticks n1 s).clk.sec (ticks (n1 + n2) s).clk.nsec none) := by
  simp only [readStep_gen1, microSteps_ticks_pause, readStep_sec, readStep_nsec, samplesSub_ticks, ticks_ticks, h,
    Bool.false_eq_true, if_false]

/-- An attempt that takes a sub-period reading, up to its second GEN read. -/
theorem attempt_with_sub {s : State} {r : Reader} (h : samplesSub s r = true) (n1 n2 n3 n4 : Nat) :
    microSteps 1 (ticks n4 (microSteps 1 (ticks n3 (microSteps 1 (ticks n2
        (microSteps 1 (ticks n1 (readStep s r .gen1)))))))) =
      readStep (subTick (ticks (n1 + n2 + n3 + n4) s)).2 r
        (.gen2 s.clk.gen (ticks n1 s).clk.sec (ticks (n1 + n2) s).clk.nsec
          (some (subTick (ticks (n1 + n2 + n3) s)).1)) := by
  simp only [readStep_gen1, microSteps_ticks_pause, readStep_sec, readStep_nsec, readStep_sub, samplesSub_ticks,
    ticks_ticks, ticks_subTick, h, if_true]

/-- Fewer than 2^31 TICKs do not bring GEN back to where it was (R157, U20). -/
theorem genAccepts_ticks {k : Nat} (hpos : 0 < k) (hlt : k < 2 ^ 31) (s : State) :
    genAccepts s.clk.gen (ticks k s).clk.gen = false := by
  have hne : s.clk.gen ≠ (ticks k s).clk.gen := by
    rw [ticks_gen]
    intro h
    have hnat := congrArg BitVec.toNat h
    simp only [BitVec.toNat_add, BitVec.toNat_ofNat] at hnat
    omega
  simp [genAccepts, hne]

/-- Settles O22: NOW takes no sub-period reading. -/
theorem nowReturnsTheClockWhenUndisturbed : Obligations.NowReturnsTheClockWhenUndisturbed :=
  fun _ heven => ⟨_, rfl, rfl, undisturbed_without_sub rfl heven⟩

/-- Settles O23: the second GEN read differs from the first exactly when there was a TICK. -/
theorem nowIsCoherentOrRetries : Obligations.NowIsCoherentOrRetries := by
  intro s n1 n2 n3 heven hlt
  refine ⟨_, rfl, fun hzero => ?_, fun hpos => ?_⟩
  · obtain ⟨rfl, rfl, rfl⟩ : n1 = 0 ∧ n2 = 0 ∧ n3 = 0 := by omega
    exact undisturbed_without_sub (r := .now) rfl heven
  · refine (attempt_without_sub rfl n1 n2 n3).trans ?_
    rw [readStep_gen2, genAccepts_ticks hpos hlt, if_neg Bool.false_ne_true]
    rfl

/-- Settles O25: the second GEN read differs from the first. -/
theorem hrnowRetriesAfterATick : Obligations.HrnowRetriesAfterATick := by
  intro s n1 n2 n3 n4 hpresent _ hpos hlt
  refine ⟨_, _, rfl, rfl, ?_⟩
  have hattempt := attempt_with_sub (s := s) (r := .hrnow) hpresent n1 n2 n3 n4
  rw [readStep_gen2, subTick_clk, genAccepts_ticks hpos hlt, if_neg Bool.false_ne_true] at hattempt
  rw [hattempt]
  exact ⟨rfl, rfl, rfl⟩

/-- A queued reading is the one drawn, reduced below the tick period (R12). -/
theorem subTick_of_queue {s : State} {x : Word} {xs : List Word} (h : s.subTicks.queue = x :: xs) :
    (subTick s).1.toNat = x.toNat % s.params.tickNs ∧ (subTick s).2.subTicks.queue = xs := by
  have hlt : x.toNat % s.params.tickNs < 2 ^ 32 := Nat.lt_of_le_of_lt (Nat.mod_le _ _) x.isLt
  simp only [subTick, draw_of_queue Config.freeSubTick s.subTicks x xs h, BitVec.toNat_ofNat, Nat.mod_eq_of_lt hlt,
    and_self]

/-- Settles O24: the pair read is normalized with the reading, or returned as it is. -/
theorem hrnowRefinesTheClockWhenUndisturbed : Obligations.HrnowRefinesTheClockWhenUndisturbed := by
  intro s hwf _ heven
  obtain ⟨hpos, hlt⟩ := Params.tickNs_bounds hwf
  refine ⟨_, rfl, rfl, fun hpresent => ?_, fun habsent => ?_⟩
  · refine ⟨(subTick s).1.toNat, normalize s.clk.sec (s.clk.nsec.toNat + (subTick s).1.toNat),
      (subTick s).2.subTicks, subTick_lt hpos hlt, normalize_valid _ _, ?_, draw_taken _ _,
      fun x xs h => subTick_of_queue h, ?_⟩
    · rw [tsValue_normalize, ← Nat.add_assoc]
      rfl
    · exact undisturbed_with_sub (r := .hrnow) hpresent heven
  · exact undisturbed_without_sub (r := .hrnow) habsent heven

end Sys2Proof.Machine
end

section
/-! The transmit side (R201 to R208): the fragment search, the bytes a table owes, SEND, TXABORT, TXBUSY, and the transmit half
of POLL over one command and over many. O26, O29, O30, O31, O32, O33, O34, O35. -/

namespace Sys2Proof.Machine

open Sys2Proof

/-! ## The fragment search (R202) -/

theorem firstNonempty_eq_some_iff {t : TxSide} {j : Nat} {k : Fin 32} : firstNonempty t j = some k ↔
    (j ≤ k.val ∧ k.val < t.fcount.toNat ∧ t.ft[k.val].len ≠ 0 ∧
      ∀ m : Fin 32, j ≤ m.val → m.val < k.val → t.ft[m.val].len = 0) := by
  refine ⟨fun h => ?_, fun ⟨hj, hk, hlen, hbefore⟩ => ?_⟩
  · obtain ⟨hj, hk, hlen⟩ := firstNonempty_some h
    rw [firstNonempty, ← Fin.find?_eq_find?_finRange] at h
    refine ⟨hj, hk, hlen, fun m hjm hmk => ?_⟩
    simpa [hjm, hmk.trans hk] using Fin.eq_false_of_find?_eq_some_of_lt h m hmk
  · rw [firstNonempty, ← Fin.find?_eq_find?_finRange, Fin.find?_eq_some_iff]
    refine ⟨by simpa [hj, hk] using hlen, fun m hmk => ?_⟩
    by_cases hjm : j ≤ m.val
    · simp [hbefore m hjm hmk]
    · simp [hjm]

theorem firstNonempty_eq_none_iff {t : TxSide} {j : Nat} : firstNonempty t j = none ↔
    ∀ k : Fin 32, j ≤ k.val → k.val < t.fcount.toNat → t.ft[k.val].len = 0 := by
  refine ⟨firstNonempty_none, fun h => ?_⟩
  cases hfind : firstNonempty t j with
  | none => rfl
  | some k =>
    obtain ⟨hj, hk, hlen⟩ := firstNonempty_some hfind
    exact absurd (h k hj hk) hlen

/-- Settles O26: the two forms of the search. -/
theorem firstNonemptyIsTheSmallest : Obligations.FirstNonemptyIsTheSmallest :=
  fun _ _ => ⟨fun _ => firstNonempty_eq_some_iff, firstNonempty_eq_none_iff⟩

/-! ## The bytes a fragment list owes (R84, R206) -/

theorem fragAddrs_length (f : Frag) : (fragAddrs f).length = f.len.toNat := by simp [fragAddrs]

theorem fragAddrs_of_empty {f : Frag} (h : f.len = 0) : fragAddrs f = [] := by simp [fragAddrs, h]

/-- A non-empty fragment owes its first byte, then those of the fragment one byte on. -/
theorem fragAddrs_cons {a n : Word} (h : n ≠ 0) : fragAddrs ⟨a, n⟩ = a :: fragAddrs ⟨a + 1, n - 1⟩ := by
  have hpos : n.toNat ≠ 0 := fun h0 => h (BitVec.eq_of_toNat_eq h0)
  have hpred : n.toNat = (n - 1).toNat + 1 := by bv_omega
  have hshift : ∀ k, a + BitVec.ofNat 32 (k + 1) = a + 1 + BitVec.ofNat 32 k := fun k => by
    rw [Nat.add_comm]
    exact (add_ofNat_add_ofNat a 1 k).symm
  simp only [fragAddrs]
  rw [hpred, List.range_succ_eq_map, List.map_cons, List.map_map]
  exact congrArg₂ List.cons (BitVec.add_zero a) (List.map_congr_left fun k _ => hshift k)

theorem flatMap_fragAddrs_of_empty {fs : List Frag} (h : ∀ f ∈ fs, f.len = 0) : fs.flatMap fragAddrs = [] :=
  List.flatMap_eq_nil_iff.mpr fun f hf => fragAddrs_of_empty (h f hf)

theorem flatMap_fragAddrs_length (fs : List Frag) : (fs.flatMap fragAddrs).length = totalLen fs := by
  simp [totalLen, List.length_flatMap, fragAddrs_length]

/-- The list a transmit side holds: FT[0 .. FCOUNT-1] (R39, R40). -/
def TxSide.frags (t : TxSide) : List Frag := t.ft.toList.take t.fcount.toNat

theorem TxSide.frags_getElem {t : TxSide} {j : Nat} (h : j < t.frags.length) :
    ∃ h32 : j < 32, j < t.fcount.toNat ∧ t.frags[j] = t.ft[j] := by
  have hlt : j < t.fcount.toNat ∧ j < 32 := by simpa [frags] using h
  exact ⟨hlt.2, hlt.1, by simp [frags]⟩

/-- No non-empty fragment at or after `j`: nothing is owed from there on. -/
theorem owed_of_firstNonempty_none {t : TxSide} {j : Nat} (h : firstNonempty t j = none) :
    (t.frags.drop j).flatMap fragAddrs = [] := by
  refine flatMap_fragAddrs_of_empty fun f hf => ?_
  obtain ⟨i, hi, rfl⟩ := List.mem_iff_getElem.mp hf
  rw [List.length_drop] at hi
  obtain ⟨h32, hcount, hget⟩ := t.frags_getElem (j := j + i) (by omega)
  rw [List.getElem_drop, hget]
  exact firstNonempty_none h ⟨j + i, h32⟩ (Nat.le_add_right j i) hcount

/-- The fragments from `j` to the first non-empty one are empty. -/
theorem frags_empty_of_firstNonempty_some {t : TxSide} {j : Nat} {k : Fin 32} (h : firstNonempty t j = some k) :
    ∀ f ∈ (t.frags.drop j).take (k.val - j), f.len = 0 := by
  obtain ⟨-, -, -, hbefore⟩ := firstNonempty_eq_some_iff.mp h
  intro f hf
  obtain ⟨i, hi, rfl⟩ := List.mem_iff_getElem.mp hf
  rw [List.length_take, List.length_drop] at hi
  obtain ⟨h32, -, hget⟩ := t.frags_getElem (j := j + i) (by omega)
  rw [List.getElem_take, List.getElem_drop, hget]
  exact hbefore ⟨j + i, h32⟩ (Nat.le_add_right j i) (by simp only; omega)

/-- What is owed from `j` on is the first non-empty fragment, then the fragments after it. -/
theorem owed_of_firstNonempty_some {t : TxSide} {j : Nat} {k : Fin 32} (h : firstNonempty t j = some k) :
    (t.frags.drop j).flatMap fragAddrs = fragAddrs t.ft[k.val] ++ (t.frags.drop (k.val + 1)).flatMap fragAddrs := by
  obtain ⟨hj, hk, -⟩ := firstNonempty_some h
  have hlt : k.val < t.frags.length := by simp [TxSide.frags, hk]
  obtain ⟨_, -, hget⟩ := t.frags_getElem hlt
  have hdrop : (t.frags.drop j).drop (k.val - j) = t.ft[k.val] :: t.frags.drop (k.val + 1) := by
    rw [List.drop_drop, Nat.add_sub_cancel' hj, List.drop_eq_getElem_cons hlt, hget]
  rw [← List.take_append_drop (k.val - j) (t.frags.drop j), List.flatMap_append,
    flatMap_fragAddrs_of_empty (frags_empty_of_firstNonempty_some h), List.nil_append, hdrop, List.flatMap_cons]

/-! ## The pending bytes (R206) -/

theorem pendingAddrs_of_idle {t : TxSide} (h : t.state = .idle) : pendingAddrs t = [] := by simp only [pendingAddrs, h]

theorem pendingAddrs_of_draining {t : TxSide} (h : t.state = .draining) :
    pendingAddrs t = fragAddrs ⟨t.curAddr, t.curRem⟩ ++ (t.frags.drop (t.fidx.toNat + 1)).flatMap fragAddrs := by
  simp only [pendingAddrs, h]
  rfl

/-- A side that begins its first non-empty fragment at or after `j` owes all that the list holds from `j` on. -/
theorem pendingAddrs_beginFrag {t : TxSide} {j : Nat} {k : Fin 32} (h : firstNonempty t j = some k) :
    pendingAddrs { beginFrag t k with state := .draining } = (t.frags.drop j).flatMap fragAddrs := by
  rw [owed_of_firstNonempty_some h, pendingAddrs_of_draining rfl]
  rfl

/-- Under R42 the byte at CUR_ADDR is the first of the pending ones, and sending it leaves the others (R203, R206). -/
theorem pendingAddrs_advanceTx {t : TxSide} (hgood : t.good) (hdraining : t.state = .draining) :
    pendingAddrs t = t.curAddr :: pendingAddrs (advanceTx t) := by
  obtain ⟨-, -, hflight⟩ := hgood
  have hrem : t.curRem ≠ 0 := fun h0 => absurd (hflight hdraining).1 (by rw [h0]; decide)
  rw [pendingAddrs_of_draining hdraining, fragAddrs_cons hrem, List.cons_append]
  congr 1
  obtain ⟨hmore, heq⟩ | ⟨hlast, hnone, heq⟩ | ⟨k, hlast, hk, heq⟩ := advanceTx_cases t <;> rw [heq]
  · rw [pendingAddrs_of_draining (by exact hdraining)]
    rfl
  · rw [fragAddrs_of_empty hlast, owed_of_firstNonempty_none hnone]
    rfl
  · have hbegin : beginFrag t k = { beginFrag t k with state := .draining } := by rw [← hdraining]; rfl
    rw [fragAddrs_of_empty hlast, hbegin, pendingAddrs_beginFrag hk, List.nil_append]

/-- Under R42 a side is IDLE exactly when it owes nothing. -/
theorem idle_iff_pendingAddrs_eq_nil {t : TxSide} (hgood : t.good) : t.state = .idle ↔ pendingAddrs t = [] := by
  refine ⟨pendingAddrs_of_idle, fun hnil => ?_⟩
  cases hstate : t.state with
  | idle => rfl
  | draining => nomatch (pendingAddrs_advanceTx hgood hstate).symm.trans hnil

/-! ## SEND (R201) -/

/-- A SEND that has read its list latches it, unless its byte total is above the cap. -/
theorem execSend_of_loaded {c : Chan} {desc count : Word} {s : State} {fs : List Frag} (hidle : (s.tx c).state = .idle)
    (hcount : count ≠ 0) (hmax : count.toNat ≤ fragMax) (hload : loadFrags s desc count.toNat = .ok fs) :
    execSend c desc count s = if byteMax < totalLen fs then .next s.retRejected
      else .next ((s.setTx c (acceptList (s.tx c) count fs)).retOk 0 0) := by
  have hstate : (s.tx c).state ≠ .draining := hidle ▸ nofun
  rw [execSend, if_neg hcount, if_neg hstate, if_neg (Nat.not_lt.mpr hmax), hload]

/-- Settles O29: the checks of R201 in their order. -/
theorem sendEmptyOrRejectedChangesNothing : Obligations.SendEmptyOrRejectedChangesNothing := by
  intro s c desc count
  refine ⟨fun hzero => if_pos hzero, fun hcount hdraining => (if_neg hcount).trans (if_pos hdraining), fun hmax => ?_,
    fun fs hcount hmax hidle hload htotal => (execSend_of_loaded hidle hcount hmax hload).trans (if_pos htotal)⟩
  have hcount : count ≠ 0 := by
    rintro rfl
    exact absurd hmax (by decide)
  refine (if_neg hcount).trans ?_
  by_cases hdraining : (s.tx c).state = .draining
  · exact if_pos hdraining
  · exact (if_neg hdraining).trans (if_pos hmax)

theorem latchFrags_getElem (ft : Vector Frag 32) (fs : List Frag) (j : Fin 32) :
    (latchFrags ft fs)[j.val] = (fs[j.val]?).getD ft[j.val] := by
  simp [latchFrags]

/-- The side with the list of an accepted SEND in its table, before its first fragment begins (R201). -/
def latched (t : TxSide) (count : Word) (fs : List Frag) : TxSide :=
  { t with ft := latchFrags t.ft fs, fcount := count.setWidth 6 }

/-- An accepted list stays IDLE when all its fragments are empty, else it begins the first that is not (R201). -/
theorem acceptList_cases (t : TxSide) (count : Word) (fs : List Frag) :
    (firstNonempty (latched t count fs) 0 = none ∧ acceptList t count fs = latched t count fs) ∨
    (∃ k, firstNonempty (latched t count fs) 0 = some k ∧
      acceptList t count fs = { beginFrag (latched t count fs) k with state := .draining }) := by
  cases h : firstNonempty (latched t count fs) 0 with
  | none =>
    refine .inl ⟨rfl, ?_⟩
    unfold latched at h ⊢
    simp only [acceptList, h]
  | some k =>
    refine .inr ⟨k, rfl, ?_⟩
    unfold latched at h ⊢
    simp only [acceptList, h]

theorem acceptList_table (t : TxSide) (count : Word) (fs : List Frag) :
    (acceptList t count fs).ft = latchFrags t.ft fs ∧ (acceptList t count fs).fcount = count.setWidth 6 := by
  obtain ⟨-, h⟩ | ⟨k, -, h⟩ := acceptList_cases t count fs
  · exact h ▸ ⟨rfl, rfl⟩
  · exact h ▸ ⟨rfl, rfl⟩

section
variable {t : TxSide} {count : Word} {fs : List Frag} (hmax : count.toNat ≤ fragMax) (hlength : fs.length = count.toNat)
include hmax

theorem fcount_of_le_fragMax : (count.setWidth 6).toNat = count.toNat := by
  have hmax' : count.toNat ≤ 32 := hmax
  rw [BitVec.toNat_setWidth]
  omega

include hlength

theorem latched_frags : (latched t count fs).frags = fs := by
  have htake := latchFrags_take (ft := t.ft) (fs := fs) (hlength ▸ hmax)
  rwa [hlength, ← fcount_of_le_fragMax hmax] at htake

theorem pendingAddrs_acceptList (hidle : t.state = .idle) :
    pendingAddrs (acceptList t count fs) = fs.flatMap fragAddrs := by
  have hfrags : (latched t count fs).frags.drop 0 = fs := latched_frags hmax hlength
  obtain ⟨hnone, h⟩ | ⟨k, hk, h⟩ := acceptList_cases t count fs <;> rw [h]
  · have howed := owed_of_firstNonempty_none hnone
    rw [hfrags] at howed
    rw [howed]
    exact pendingAddrs_of_idle hidle
  · rw [pendingAddrs_beginFrag hk, hfrags]

/-- An accepted list leaves the side IDLE exactly when it has no bytes (R201). -/
theorem acceptList_idle_iff (hidle : t.state = .idle) (htotal : totalLen fs ≤ byteMax) :
    (acceptList t count fs).state = .idle ↔ totalLen fs = 0 := by
  rw [idle_iff_pendingAddrs_eq_nil (TxSide.good_acceptList hidle hmax hlength htotal),
    pendingAddrs_acceptList hmax hlength hidle, ← List.length_eq_zero_iff, flatMap_fragAddrs_length]

/-- An accepted list with no bytes leaves the in-flight fields as they were (R201). -/
theorem acceptList_of_no_bytes (hidle : t.state = .idle) (htotal : totalLen fs = 0) :
    acceptList t count fs = latched t count fs := by
  obtain ⟨-, h⟩ | ⟨k, -, h⟩ := acceptList_cases t count fs
  · exact h
  · have hstate := (acceptList_idle_iff hmax hlength hidle (htotal.trans_le (Nat.zero_le _))).mpr htotal
    rw [h] at hstate
    nomatch hstate

/-- An accepted list with bytes is DRAINING at its first non-empty fragment (R201, R202). -/
theorem acceptList_of_bytes (hidle : t.state = .idle) (hbytes : totalLen fs ≠ 0) (htotal : totalLen fs ≤ byteMax) :
    ∃ (k : Fin 32) (hk : k.val < fs.length), (∀ f ∈ fs.take k.val, f.len = 0) ∧ fs[k.val].len ≠ 0 ∧
      acceptList t count fs = { latched t count fs with
        state := .draining, fidx := BitVec.ofFin k, curAddr := fs[k.val].addr, curRem := fs[k.val].len } := by
  obtain ⟨-, h⟩ | ⟨k, hk, h⟩ := acceptList_cases t count fs
  · have hstate := (acceptList_idle_iff (t := t) hmax hlength hidle htotal).not.mpr hbytes
    rw [h] at hstate
    exact absurd hidle hstate
  · obtain ⟨-, hcount, hlen⟩ := firstNonempty_some hk
    have hempty := frags_empty_of_firstNonempty_some hk
    have hlt : k.val < fs.length := hlength ▸ fcount_of_le_fragMax hmax ▸ hcount
    have hentry : (latched t count fs).ft[k.val] = fs[k.val] := by simp [latched, latchFrags_getElem, hlt]
    rw [latched_frags hmax hlength] at hempty
    rw [hentry] at hlen
    rw [beginFrag, hentry] at h
    exact ⟨k, hlt, hempty, hlen, h⟩

end

/-- Settles O30: the list read is latched, and its byte total decides whether a fragment begins. -/
theorem sendLatchesTheList : Obligations.SendLatchesTheList := by
  intro s c desc count fs hidle hpos hmax hload htotal
  have hcount : count ≠ 0 := by
    rintro rfl
    exact absurd hpos (by decide)
  have hlength : fs.length = count.toNat := loadFrags_length hload
  obtain ⟨hft, hfcount⟩ := acceptList_table (s.tx c) count fs
  refine ⟨acceptList (s.tx c) count fs, ?_, ?_, hlength, fun j hj => ?_, fun j hj => ?_,
    pendingAddrs_acceptList hmax hlength hidle, fun hnone => ?_, fun hbytes => ?_⟩
  · exact (execSend_of_loaded hidle hcount hmax hload).trans (if_neg (Nat.not_lt.mpr htotal))
  · rw [hfcount, fcount_of_le_fragMax hmax]
  · simp [hft, latchFrags_getElem, hj]
  · simp [hft, latchFrags_getElem, hj]
  · rw [acceptList_of_no_bytes hmax hlength hidle hnone]
    exact ⟨hidle, rfl, rfl, rfl⟩
  · obtain ⟨k, hk, hempty, hlen, heq⟩ := acceptList_of_bytes hmax hlength hidle hbytes htotal
    rw [heq]
    exact ⟨rfl, hk, rfl, rfl, hlen, hempty⟩

/-! ## TXABORT and TXBUSY (R204, R205) -/

/-- Settles O31: the side written is the zeroed one of R54. -/
theorem txabortClearsTheTransmitSide : Obligations.TxabortClearsTheTransmitSide :=
  fun _ _ => ⟨TxSide.zero, rfl, rfl, rfl, rfl, rfl, rfl, fun j => Vector.getElem_replicate j.isLt⟩

theorem boolCode_txBusy (t : TxSide) (ready : Bool) :
    boolCode (txBusy t ready) = if t.state = .draining ∨ ready = false then 1 else 0 := by
  simp [boolCode, txBusy]

/-- A queued answer is the one HwTxReady gives, and it is used up (R17). -/
theorem hwTxReady_of_queue {s : State} {c : Chan} {a : Bool} {as : List Bool} (h : (s.line c).txReady.queue = a :: as) :
    (hwTxReady s c).1 = a ∧ ((hwTxReady s c).2.line c).txReady.queue = as := by
  simp [hwTxReady, draw_of_queue _ _ a as h]

/-- Settles O32: the answer is the next draw of the line. -/
theorem txbusyReportsDrainingOrLineNotReady : Obligations.TxbusyReportsDrainingOrLineNotReady := by
  intro s c
  refine ⟨(hwTxReady s c).1, { s.line c with txReady := (draw (Config.freeTxReady c) (s.line c).txReady).2 }, ?_,
    draw_taken _ _, rfl, rfl, fun x xs hqueue => ?_⟩
  · rw [← boolCode_txBusy]
    rfl
  · exact hwTxReady_line s c ▸ hwTxReady_of_queue hqueue

/-! ## One POLL (R203, R300) -/

/-- From `s` to `t` nothing changed of the transmit side of `c`, its log, and the line's HwTxReady answers. -/
structure SameTransmit (c : Chan) (s t : State) : Prop where
  tx      : t.tx c = s.tx c
  log     : t.log c = s.log c
  txReady : (t.line c).txReady = (s.line c).txReady

theorem afterLine_sameTransmit (s : State) (c : Chan) : SameTransmit c s (afterLine s c) := by
  unfold afterLine
  split
  · exact ⟨rfl, rfl, by simp [hwRead, hwRxReady]⟩
  · exact ⟨rfl, rfl, by simp [hwRxReady]⟩

/-- The receive half leaves the transmit half everything as it was (R300). -/
theorem rxStep_sameTransmit (s : State) (c : Chan) (t : Timestamp) : SameTransmit c s (rxStep s c t).state := by
  have hline := afterLine_sameTransmit s c
  obtain ⟨-, h⟩ | ⟨b, -, -, h⟩ | ⟨b, -, -, h⟩ := rxStep_cases s c t <;> rw [h]
  · exact { hline with tx := (setRx_tx _ c c _).trans hline.tx }
  · exact { hline with tx := (setRx_tx _ c c _).trans hline.tx }
  · exact hline

/-- The receive half goes on when the store of an armed slot is admitted (R251). -/
theorem rxStep_going {s : State} {c : Chan} (t : Timestamp)
    (hstore : (s.rx c).state = .armed → memOk s.params ⟨.write, (s.rx c).buf + (s.rx c).idx⟩ = true) :
    ∃ s1, rxStep s c t = .going s1 := by
  obtain ⟨-, h⟩ | ⟨b, -, -, h⟩ | ⟨b, hb, hrefused, -⟩ := rxStep_cases s c t
  · exact ⟨_, h⟩
  · exact ⟨_, h⟩
  · nomatch (hstore (acceptedByte_some hb).1).symm.trans hrefused

/-- The receive half of an UNARMED slot uses up the line's answers and does nothing else (R251, R252). -/
theorem rxStep_of_unarmed {s : State} {c : Chan} (t : Timestamp) (h : (s.rx c).state = .unarmed) :
    rxStep s c t = .going ((afterLine s c).setRx c (s.rx c)) := by
  have hnone : acceptedByte (s.rx c) (hwRxReady s c).1 (hwRead (hwRxReady s c).2 c).1 = none := by simp [acceptedByte, h]
  have hcheck : checkComplete (s.rx c) (s.timeout c) t = s.rx c := by simp [checkComplete, h]
  obtain ⟨-, heq⟩ | ⟨b, hb, -⟩ | ⟨b, hb, -⟩ := rxStep_cases s c t
  · rw [heq, hcheck]
  · nomatch hnone.symm.trans hb
  · nomatch hnone.symm.trans hb

theorem exec_poll_of_going {s s1 s2 : State} {c : Chan} {sec ns : Word} (hns : ns.toNat < nsPerS)
    (htx : txStep s c = .going s1) (hrx : rxStep s1 c ⟨sec, ns⟩ = .going s2) :
    exec (.poll c sec ns) s = .next (s2.ret .ok 0 0) :=
  (execPoll_of_valid hns).trans (by rw [pollBoth_of_going _ htx, hrx, conclude_going])

/-- A POLL whose accesses are admitted answers OK, with the transmit side as its transmit half left it (R203, R300). -/
theorem exec_poll_sameTransmit {s s1 : State} {c : Chan} {sec ns : Word} (hns : ns.toNat < nsPerS)
    (htx : txStep s c = .going s1)
    (hstore : (s.rx c).state = .armed → memOk s.params ⟨.write, (s.rx c).buf + (s.rx c).idx⟩ = true) :
    ∃ t, exec (.poll c sec ns) s = .next t ∧ t.resp = some ⟨.ok, 0, 0, 0⟩ ∧ SameTransmit c s1 t := by
  have hsame := txStep_sameReceive s c
  rw [htx] at hsame
  change SameReceive c s s1 at hsame
  rw [← hsame.rx, ← hsame.params] at hstore
  obtain ⟨s2, hrx⟩ := rxStep_going ⟨sec, ns⟩ hstore
  have hkept := rxStep_sameTransmit s1 c ⟨sec, ns⟩
  rw [hrx] at hkept
  exact ⟨_, exec_poll_of_going hns htx hrx, rfl, { hkept with }⟩

theorem txStep_of_idle {s : State} {c : Chan} (h : (s.tx c).state = .idle) : txStep s c = .going s := if_pos h

theorem txStep_of_not_ready {s : State} {c : Chan} (hdraining : (s.tx c).state = .draining)
    (hbusy : (hwTxReady s c).1 = false) : txStep s c = .going (hwTxReady s c).2 := by
  simp [txStep, hdraining, hbusy]

/-- A POLL that sends: the byte at CUR_ADDR goes out, and the transmit side moves on as `advanceTx` does (R203). -/
theorem exec_poll_sends {s : State} {c : Chan} {sec ns : Word} (hns : ns.toNat < nsPerS)
    (hdraining : (s.tx c).state = .draining) (hready : (hwTxReady s c).1 = true)
    (hadmitted : memOk s.params ⟨.read, (s.tx c).curAddr⟩ = true)
    (hstore : (s.rx c).state = .armed → memOk s.params ⟨.write, (s.rx c).buf + (s.rx c).idx⟩ = true) :
    ∃ t, exec (.poll c sec ns) s = .next t ∧ t.resp = some ⟨.ok, 0, 0, 0⟩ ∧ t.tx c = advanceTx (s.tx c) ∧
      t.log c = s.log c ++ [memRead s.mem (s.tx c).curAddr.toNat] ∧
      (t.line c).txReady = ((hwTxReady s c).2.line c).txReady := by
  obtain ⟨t, hexec, hresp, hsame⟩ :=
    exec_poll_sameTransmit (sec := sec) hns (txStep_of_admitted hdraining hready hadmitted) hstore
  exact ⟨t, hexec, hresp, by simpa using hsame.tx, by simpa using hsame.log, hsame.txReady⟩

/-- Settles O33: the three ways `advanceTx` can go. -/
theorem pollSendsTheNextByte : Obligations.PollSendsTheNextByte := by
  intro s c sec ns hns hgood hdraining hready hadmitted hstore
  obtain ⟨t, hexec, hresp, htx, hlog, -⟩ := exec_poll_sends (sec := sec) hns hdraining hready hadmitted hstore
  have hlast : (s.tx c).curRem - 1 = 0 ↔ (s.tx c).curRem = 1 := sub_eq_zero
  refine ⟨t, hexec, hresp, hlog, htx ▸ pendingAddrs_advanceTx hgood hdraining, ?_⟩
  rw [htx]
  obtain ⟨hmore, heq⟩ | ⟨hzero, hnone, heq⟩ | ⟨k, hzero, hk, heq⟩ := advanceTx_cases (s.tx c)
  · have hne := hlast.not.mp hmore
    exact ⟨fun _ => heq, fun _ hone => absurd hone hne, fun hone => absurd hone hne⟩
  · rw [hzero] at heq
    exact ⟨fun hne => absurd (hlast.mp hzero) hne, fun _ _ hk => (nomatch hnone.symm.trans hk), fun _ _ => heq⟩
  · refine ⟨fun hne => absurd (hlast.mp hzero) hne, fun k' _ hk' => ?_, fun _ hnone => nomatch hk.symm.trans hnone⟩
    cases hk.symm.trans hk'
    have hfidx : BitVec.ofFin k = BitVec.ofNat 5 k.val := BitVec.eq_of_toNat_eq (Nat.mod_eq_of_lt k.isLt).symm
    rw [heq, beginFrag, hfidx]

/-- Settles O34: the transmit half asks the line at most once and goes on. -/
theorem pollSendsNothingWhenIdleOrNotReady : Obligations.PollSendsNothingWhenIdleOrNotReady := by
  intro s c sec ns hns hquiet hstore
  cases hstate : (s.tx c).state with
  | idle =>
    obtain ⟨t, hexec, hresp, hsame⟩ := exec_poll_sameTransmit (sec := sec) hns (txStep_of_idle hstate) hstore
    exact ⟨t, hexec, hresp, hsame.log, hsame.tx, congrArg Draws.taken hsame.txReady⟩
  | draining =>
    have hbusy := hquiet.resolve_left (hstate ▸ nofun)
    obtain ⟨t, hexec, hresp, hsame⟩ :=
      exec_poll_sameTransmit (sec := sec) hns (txStep_of_not_ready hstate hbusy) hstore
    exact ⟨t, hexec, hresp, hsame.log, hsame.tx,
      (congrArg Draws.taken hsame.txReady).trans (congrArg Prod.fst (lineUses_hwTxReady s c))⟩

/-! ## Many POLLs (R206, R207) -/

/-- A POLL of an UNARMED slot changes neither memory nor the slot, however it ends (R251). -/
theorem exec_poll_of_unarmed {s t : State} {c : Chan} {sec ns : Word} (hunarmed : (s.rx c).state = .unarmed)
    (h : exec (.poll c sec ns) s = .next t) : t.rx c = s.rx c ∧ t.mem = s.mem := by
  obtain ⟨r, -, rfl⟩ | ⟨-, rfl⟩ := execPoll_cases h
  · exact ⟨rfl, rfl⟩
  · have hsame := txStep_sameReceive s c
    cases htx : txStep s c with
    | hung s1 a =>
      rw [htx] at hsame
      rw [pollBoth_of_hung _ htx]
      exact ⟨hsame.rx, hsame.mem⟩
    | going s1 =>
      rw [htx] at hsame
      change SameReceive c s s1 at hsame
      obtain ⟨ls, hline⟩ := afterLine_eq s1 c
      rw [pollBoth_of_going _ htx, rxStep_of_unarmed _ (hsame.rx ▸ hunarmed), hline, conclude_going]
      exact ⟨by simp [hsame.rx], hsame.mem⟩

/-- From `s` to `t` channel `c` has sent the first `n` of the bytes it owed at `s`, as memory holds them, and owes the others;
R42 is kept, and the slot, memory and the parameters are as they were. -/
structure Sent (c : Chan) (n : Nat) (s t : State) : Prop where
  log     : t.log c = s.log c ++ ((pendingAddrs (s.tx c)).take n).map fun a => memRead s.mem a.toNat
  pending : pendingAddrs (t.tx c) = (pendingAddrs (s.tx c)).drop n
  good    : (t.tx c).good
  rx      : t.rx c = s.rx c
  mem     : t.mem = s.mem
  params  : t.params = s.params

namespace Sent

theorem refl {c : Chan} {s : State} (h : (s.tx c).good) : Sent c 0 s s := ⟨by simp, rfl, h, rfl, rfl, rfl⟩

theorem trans {c : Chan} {m n : Nat} {s t u : State} (h : Sent c m s t) (k : Sent c n t u) : Sent c (m + n) s u where
  log := by rw [k.log, h.log, h.pending, h.mem, List.take_add, List.map_append, List.append_assoc]
  pending := by rw [k.pending, h.pending, List.drop_drop]
  good := k.good
  rx := k.rx.trans h.rx
  mem := k.mem.trans h.mem
  params := k.params.trans h.params

end Sent

section
variable {s : State} {c : Chan} {u : Timestamp} (hgood : (s.tx c).good) (hunarmed : (s.rx c).state = .unarmed) (hu : tsValid u)
include hgood hunarmed hu

/-- A POLL whose transmit half leaves the transmit side as it was sends nothing. -/
theorem exec_poll_sent_none {s1 : State} (hstep : txStep s c = .going s1) (htx : s1.tx c = s.tx c)
    (hlog : s1.log c = s.log c) :
    ∃ t, exec (.poll c u.sec u.ns) s = .next t ∧ Sent c 0 s t ∧ (t.line c).txReady = (s1.line c).txReady := by
  obtain ⟨t, hexec, -, hsame⟩ := exec_poll_sameTransmit (sec := u.sec) hu hstep (hunarmed ▸ nofun)
  obtain ⟨hrx, hmem⟩ := exec_poll_of_unarmed hunarmed hexec
  have htx' : t.tx c = s.tx c := hsame.tx.trans htx
  refine ⟨t, hexec, ⟨?_, ?_, htx' ▸ hgood, hrx, hmem, (exec_only_of_chan rfl hexec).params⟩, hsame.txReady⟩
  · simp [hsame.log, hlog]
  · rw [htx', List.drop_zero]

/-- A POLL of a DRAINING side with a ready line sends the first byte owed. -/
theorem exec_poll_sent_one (hdraining : (s.tx c).state = .draining) (hready : (hwTxReady s c).1 = true)
    (hadmitted : ∀ x ∈ pendingAddrs (s.tx c), memOk s.params ⟨.read, x⟩ = true) :
    ∃ t, exec (.poll c u.sec u.ns) s = .next t ∧ Sent c 1 s t ∧
      (t.line c).txReady = ((hwTxReady s c).2.line c).txReady := by
  have hpending := pendingAddrs_advanceTx hgood hdraining
  have hfirst : memOk s.params ⟨.read, (s.tx c).curAddr⟩ = true := hadmitted _ (hpending ▸ List.mem_cons_self)
  obtain ⟨t, hexec, -, htx, hlog, htxReady⟩ :=
    exec_poll_sends (sec := u.sec) hu hdraining hready hfirst (hunarmed ▸ nofun)
  obtain ⟨hrx, hmem⟩ := exec_poll_of_unarmed hunarmed hexec
  have hkept : (t.tx c).good := htx ▸ TxSide.good_advanceTx hgood hdraining
  refine ⟨t, hexec, ⟨?_, ?_, hkept, hrx, hmem, (exec_only_of_chan rfl hexec).params⟩, htxReady⟩
  · simp [hlog, hpending]
  · simp [htx, hpending]

/-- One POLL sends one byte when its answer is ready, and none when it is not; an IDLE side leaves the answer unasked. -/
theorem exec_poll_sent {a : Bool} {as : List Bool}
    (hqueue : (s.tx c).state = .draining → (s.line c).txReady.queue = a :: as)
    (howed : a = true → pendingAddrs (s.tx c) ≠ [])
    (hadmitted : ∀ x ∈ pendingAddrs (s.tx c), memOk s.params ⟨.read, x⟩ = true) :
    ∃ t, exec (.poll c u.sec u.ns) s = .next t ∧ Sent c a.toNat s t ∧
      ((t.tx c).state = .draining → (t.line c).txReady.queue = as) := by
  cases hstate : (s.tx c).state with
  | idle =>
    have hnil := pendingAddrs_of_idle hstate
    obtain rfl : a = false := Bool.eq_false_iff.mpr fun ha => howed ha hnil
    obtain ⟨t, hexec, hsent, -⟩ := exec_poll_sent_none hgood hunarmed hu (txStep_of_idle hstate) rfl rfl
    have hidle : (t.tx c).state = .idle :=
      (idle_iff_pendingAddrs_eq_nil hsent.good).mpr (by rw [hsent.pending, hnil, List.drop_nil])
    exact ⟨t, hexec, hsent, fun hdraining => nomatch hidle.symm.trans hdraining⟩
  | draining =>
    obtain ⟨hanswer, hrest⟩ := hwTxReady_of_queue (hqueue hstate)
    cases a with
    | false =>
      obtain ⟨t, hexec, hsent, hline⟩ :=
        exec_poll_sent_none hgood hunarmed hu (txStep_of_not_ready hstate hanswer) rfl rfl
      exact ⟨t, hexec, hsent, fun _ => hline ▸ hrest⟩
    | true =>
      obtain ⟨t, hexec, hsent, hline⟩ := exec_poll_sent_one hgood hunarmed hu hstate hanswer hadmitted
      exact ⟨t, hexec, hsent, fun _ => hline ▸ hrest⟩

end

/-- POLLs of one channel with these answers send one byte per ready answer. The queue is spoken of while the side is DRAINING
only: once it is IDLE, no POLL asks (R203). -/
theorem execAll_polls_sent {c : Chan} {rest : List Bool} (times : List Timestamp) : ∀ (answers : List Bool) {s : State},
    (s.tx c).good → (s.rx c).state = .unarmed → (∀ u ∈ times, tsValid u) → times.length = answers.length →
    ((s.tx c).state = .draining → (s.line c).txReady.queue = answers ++ rest) →
    answers.count true ≤ (pendingAddrs (s.tx c)).length →
    (∀ a ∈ pendingAddrs (s.tx c), memOk s.params ⟨.read, a⟩ = true) →
      ∃ t, execAll (times.map fun u => .poll c u.sec u.ns) s = .next t ∧ Sent c (answers.count true) s t := by
  induction times with
  | nil =>
    rintro (_ | ⟨a, as⟩) s hgood - - hlength - - -
    · exact ⟨s, rfl, .refl hgood⟩
    · nomatch hlength
  | cons u us ih =>
    rintro (_ | ⟨a, as⟩) s hgood hunarmed hvalid hlength hqueue hcount hadmitted
    · nomatch hlength
    have hsplit : (a :: as).count true = a.toNat + as.count true := by
      cases a <;> simp [Nat.add_comm]
    have howed : a = true → pendingAddrs (s.tx c) ≠ [] := by
      rintro rfl hnil
      rw [hsplit, hnil] at hcount
      simp at hcount
    obtain ⟨hu, hus⟩ := List.forall_mem_cons.mp hvalid
    obtain ⟨t, hexec, hsent, hrest⟩ := exec_poll_sent hgood hunarmed hu hqueue howed hadmitted
    obtain ⟨t', hexec', hsent'⟩ := ih as hsent.good (hsent.rx ▸ hunarmed) hus (Nat.succ.inj hlength) hrest
      (by rw [hsent.pending, List.length_drop]; omega)
      (fun x hx => hsent.params ▸ hadmitted x (List.mem_of_mem_drop (hsent.pending ▸ hx)))
    refine ⟨t', ?_, hsplit ▸ hsent.trans hsent'⟩
    simpa only [List.map_cons, execAll, hexec] using hexec'

/-- Settles O35: what `Sent` says of the whole run; IDLE is owing nothing. -/
theorem messageIsSentWholeAndInOrder : Obligations.MessageIsSentWholeAndInOrder := by
  intro s c times answers rest hgood hunarmed hvalid hlength hqueue hcount hadmitted
  obtain ⟨t, hexec, hsent⟩ :=
    execAll_polls_sent times answers hgood hunarmed hvalid hlength (fun _ => hqueue) hcount hadmitted
  refine ⟨t, hexec, hsent.log, hsent.pending, ?_, hsent.mem⟩
  rw [idle_iff_pendingAddrs_eq_nil hsent.good, hsent.pending, List.drop_eq_nil_iff]
  exact ⟨hcount.antisymm, Eq.ge⟩

end Sys2Proof.Machine
end

section
/-! The receive commands (R250, R254 to R257), and that nothing writes LINE_BREAK (R47, R254): O36, O37, O40, O41, O42, O45. -/

namespace Sys2Proof.Machine

open Sys2Proof

/-! ## RECV (R250) -/

/-- Settles O36: a capacity outside 1 to 65528 fails the second check of R250. -/
theorem recvRejectionsChangeNothing : Obligations.RecvRejectionsChangeNothing := by
  intro s c buf cap h
  change execRecv c buf cap s = _
  unfold execRecv
  split
  next => rfl
  next hunarmed =>
    exact if_pos ((h.resolve_left hunarmed).imp_left fun hzero => BitVec.eq_of_toNat_eq hzero)

theorem execRecv_of_accepted {c : Chan} {buf cap : Word} {s : State} (hunarmed : (s.rx c).state = .unarmed)
    (hcap : capGood cap) : execRecv c buf cap s = .next (readStep s (.recv c buf cap) .gen1) := by
  obtain ⟨hpos, hmax⟩ := hcap
  have hlegal : ¬ (cap = 0 ∨ byteMax < cap.toNat) := by
    rintro (rfl | hbig)
    · exact absurd hpos (by decide)
    · omega
  have hnotArmed : ¬ (s.rx c).state = .armed := by simp [hunarmed]
  exact (if_neg hnotArmed).trans (if_neg hlegal)

theorem microSteps_of_micro_none {s : State} (h : s.micro = none) : ∀ n, microSteps n s = s
  | 0 => rfl
  | n + 1 => by simp only [microSteps, h]

theorem microSteps_add (m n : Nat) (s : State) : microSteps (m + n) s = microSteps n (microSteps m s) := by
  induction m generalizing s with
  | zero => rw [Nat.zero_add, microSteps]
  | succ m ih =>
    rw [Nat.succ_add]
    cases hmicro : s.micro with
    | none => simp only [microSteps_of_micro_none hmicro]
    | some x => simp only [microSteps, hmicro, ih]

/-- The micro-step after the accepted read of a RECV: the slot is armed with the time read, and OK returned (R250). -/
theorem microSteps_acceptRead_recv (s : State) (c : Chan) (buf cap : Word) (t : Timestamp) :
    microSteps 1 (acceptRead s t (.recv c buf cap)) = (s.setRx c (armedSlot buf cap t)).ret .ok 0 0 := rfl

/-- Settles O37: the undisturbed loop of the HRNOW inside, then the arming step. -/
theorem recvArmsTheSlot : Obligations.RecvArmsTheSlot := by
  intro s c buf cap hwf _ heven hunarmed hcap
  obtain ⟨hpos, hlt⟩ := Params.tickNs_bounds hwf
  refine ⟨_, execRecv_of_accepted hunarmed hcap, rfl, fun hpresent => ?_, fun habsent => ?_⟩
  · refine ⟨(subTick s).1.toNat, normalize s.clk.sec (s.clk.nsec.toNat + (subTick s).1.toNat),
      (subTick s).2.subTicks, subTick_lt hpos hlt, normalize_valid _ _, ?_, draw_taken _ _, ?_⟩
    · rw [tsValue_normalize, ← Nat.add_assoc]
      rfl
    · rw [microSteps_add 4 1, undisturbed_with_sub (r := .recv c buf cap) hpresent heven, microSteps_acceptRead_recv]
      rfl
  · rw [microSteps_add 3 1, undisturbed_without_sub (r := .recv c buf cap) habsent heven, microSteps_acceptRead_recv]
    rfl

/-! ## RXABORT, RXBUSY and RXSTAT (R255 to R257) -/

/-- Settles O40: the one check of R255 is the slot's state. -/
theorem rxabortCompletesTheSlot : Obligations.RxabortCompletesTheSlot := by
  intro s c
  refine ⟨fun harmed => if_pos harmed, fun hunarmed => if_neg ?_⟩
  rw [hunarmed]
  nofun

/-- Settles O41: `rx_busy` is the slot's state as a truth value. -/
theorem rxbusyReportsArmed : Obligations.RxbusyReportsArmed := by
  intro s c
  change Host.Outcome.next (s.retOk (boolCode (rxBusy (s.rx c))) 0) = _
  simp only [retOk_eq, boolCode, rxBusy, decide_eq_true_eq]

/-- Settles O42: RES0 is the number of the kind held. -/
theorem rxstatReturnsTheDescriptor : Obligations.RxstatReturnsTheDescriptor := by
  intro s c
  have hcode {n : Word} (h : kindCode (s.rx c).kind = n) :
      exec (.rxstat c) s = .next (s.ret .ok n (s.rx c).len) := by rw [← h]; rfl
  exact ⟨fun h => hcode (congrArg kindCode h), fun h => hcode (congrArg kindCode h), fun h => hcode (congrArg kindCode h)⟩

/-! ## The kind of a descriptor (R47, R254) -/

/-- `complete` is the only write of a kind in the detector, and it writes DATA (R252, R254). -/
theorem checkComplete_kind (r : RxSide) (timeout t : Timestamp) :
    (checkComplete r timeout t).kind = r.kind ∨ (checkComplete r timeout t).kind = .data := by
  obtain ⟨-, h⟩ | ⟨-, -, h⟩ | ⟨-, -, -, h⟩ | ⟨-, -, -, h⟩ := checkComplete_cases r timeout t <;> rw [h]
  · exact .inl rfl
  · exact .inr rfl
  · exact .inr rfl
  · exact .inl rfl

theorem rxStep_kind (s : State) (c : Chan) (t : Timestamp) :
    ((rxStep s c t).state.rx c).kind = (s.rx c).kind ∨ ((rxStep s c t).state.rx c).kind = .data := by
  obtain ⟨-, h⟩ | ⟨b, -, -, h⟩ | ⟨b, -, -, h⟩ := rxStep_cases s c t <;> rw [h]
  · simpa [Progress.state] using checkComplete_kind (s.rx c) (s.timeout c) t
  · simpa [Progress.state] using
      checkComplete_kind { s.rx c with idx := (s.rx c).idx + 1, last := t } (s.timeout c) t
  · obtain ⟨ls, hline⟩ := afterLine_eq s c
    rw [hline]
    exact .inl rfl

theorem pollBoth_kind (s : State) (c : Chan) (t : Timestamp) :
    ((pollBoth s c t).state.rx c).kind = (s.rx c).kind ∨ ((pollBoth s c t).state.rx c).kind = .data := by
  have hsame := (txStep_sameReceive s c).rx
  cases htx : txStep s c with
  | hung s1 a =>
    rw [htx] at hsame
    rw [pollBoth_of_hung t htx]
    exact .inl (congrArg RxSide.kind hsame)
  | going s1 =>
    rw [htx] at hsame
    rw [pollBoth_of_going t htx, ← hsame]
    exact rxStep_kind s1 c t

theorem conclude_rx (p : Progress) (c : Chan) : (conclude p).rx c = p.state.rx c := by
  cases p <;> rfl

/-- A command of a channel leaves its descriptor's kind, or makes it DATA; RECV's NONE is written by a later micro-step
(R250, R254). -/
theorem exec_kind {i : Instr} {c : Chan} {s t : State} (hc : i.chan = some c) (h : exec i s = .next t) :
    (t.rx c).kind = (s.rx c).kind ∨ (t.rx c).kind = .data := by
  cases i with
  | now | hrnow | delta | cmp | norm | clkrd => nomatch hc
  | send => cases hc; exact .inl (congrArg RxSide.kind (execSend_frame h).1)
  | txabort => cases hc; exact .inl (congrArg RxSide.kind (execTxabort_frame h).1)
  | txbusy => cases h; exact .inl rfl
  | recv => rw [execRecv_frame h]; exact .inl rfl
  | rxabort =>
    cases hc
    obtain ⟨r, -, rfl⟩ | ⟨-, rfl⟩ := execRxabort_cases h
    · exact .inl rfl
    · exact .inr (by simp [completeRx])
  | rxbusy => cases h; exact .inl rfl
  | rxstat => cases h; exact .inl rfl
  | poll =>
    cases hc
    obtain ⟨r, -, rfl⟩ | ⟨-, rfl⟩ := execPoll_cases h
    · exact .inl rfl
    · rw [conclude_rx]
      exact pollBoth_kind s c _

/-- No descriptor is LINE_BREAK (R47). -/
def State.NoLineBreak (s : State) : Prop := ∀ c, (s.rx c).kind ≠ .lineBreak

theorem State.NoLineBreak.of_ch {s t : State} (h : s.NoLineBreak) (hch : t.ch = s.ch) : t.NoLineBreak := fun c => by
  simpa only [State.rx, State.chan, hch] using h c

/-- Where only one channel changed, its kind alone matters. -/
theorem State.NoLineBreak.of_only {s t : State} {c : Chan} (h : s.NoLineBreak) (ho : OnlyChannel c s t)
    (hc : (t.rx c).kind ≠ .lineBreak) : t.NoLineBreak := fun d => by
  by_cases hd : d = c
  · rwa [hd]
  · simpa only [State.rx, (ho.others d hd).1] using h d

theorem exec_noLineBreak {i : Instr} {s t : State} (hs : s.NoLineBreak) (h : exec i s = .next t) : t.NoLineBreak := by
  cases hc : i.chan with
  | none => exact hs.of_ch (by rw [exec_frame_of_clock hc h])
  | some c =>
    refine hs.of_only (exec_only_of_chan hc h) ?_
    obtain hkept | hdata := exec_kind hc h
    · exact hkept ▸ hs c
    · exact hdata ▸ nofun

theorem microStep_noLineBreak {s : State} (hs : s.NoLineBreak) (m : Micro) : (microStep s m).NoLineBreak := by
  cases m with
  | reading r p =>
    have hframe : (readStep s r p).ch = s.ch := by rw [readStep_frame]
    exact hs.of_ch hframe
  | arming c buf cap t =>
    exact hs.of_only ((OnlyChannel.setRx s c _).trans (.ret c _ _ _ _)) (by simp [microStep, armSlot, armedSlot])

theorem hostAct_noLineBreak {a : HostAct} {s t : State} (hs : s.NoLineBreak) (h : hostAct a s = .next t) :
    t.NoLineBreak := by
  cases a with
  | idle | store => cases h; exact hs
  | command k =>
    change present k s = .next t at h
    cases hd : decode s.params.nchan k with
    | ok i => exact exec_noLineBreak hs ((present_of_decode_ok hd).symm.trans h)
    | error e => cases (present_of_decode_error hd).symm.trans h; exact hs

/-- Settles O45: a TICK writes no slot, and a host turn is a micro-step or an act. -/
theorem lineBreakIsNeverProduced : Obligations.LineBreakIsNeverProduced := by
  intro s t hstep hs
  have hnext : (nextTurn s).2.NoLineBreak := hs
  rw [step_eq] at hstep
  cases hagent : (nextTurn s).1 with
  | tick =>
    rw [hagent] at hstep
    cases hstep
    exact hnext
  | host =>
    rw [hagent] at hstep
    change hostTurn (nextTurn s).2 = .next t at hstep
    obtain ⟨a, -, heq⟩ | ⟨-, m, -, heq⟩ | ⟨-, -, heq⟩ := hostTurn_cases (nextTurn s).2 <;> rw [heq] at hstep
    · nomatch hstep
    · cases hstep
      exact microStep_noLineBreak hnext m
    · exact hostAct_noLineBreak (s := (nextAct (nextTurn s).2).2) hnext hstep

end Sys2Proof.Machine
end

section
/-! One POLL's receive half (R251, R252, R260): its two ways to go on, untouched by the transmit half before it, and what the
detector's check then makes of the slot. O38, O39, O50. -/

namespace Sys2Proof.Machine

open Sys2Proof

/-! ## The receive half, alone and after a transmit half (R251, R300) -/

/-- No byte is stored exactly when the slot is UNARMED, the line had none, or it came with an error (R251). -/
theorem acceptedByte_eq_none_iff {r : RxSide} {ready : Bool} {got : Byte × Bool} :
    acceptedByte r ready got = none ↔ r.state = .unarmed ∨ ready = false ∨ got.2 = true := by
  cases hstate : r.state with
  | unarmed => simp [acceptedByte, hstate]
  | armed => cases ready <;> simp [acceptedByte, hstate]

theorem setRx_rx_same (s : State) (c : Chan) (r : RxSide) : (s.setRx c r).rx c = r := (setRx_rx s c c r).trans (if_pos rfl)

theorem rxStep_of_none {s : State} {c : Chan} (t : Timestamp)
    (h : acceptedByte (s.rx c) (hwRxReady s c).1 (hwRead (hwRxReady s c).2 c).1 = none) :
    rxStep s c t = .going ((afterLine s c).setRx c (checkComplete (s.rx c) (s.timeout c) t)) := by
  simp [rxStep, afterLine, h]

/-- The slot once a byte is stored at time `u`, before the check (R251). -/
def RxSide.stored (r : RxSide) (u : Timestamp) : RxSide := { r with idx := r.idx + 1, last := u }

theorem rxStep_of_stored {s : State} {c : Chan} {b : Byte} (t : Timestamp)
    (h : acceptedByte (s.rx c) (hwRxReady s c).1 (hwRead (hwRxReady s c).2 c).1 = some b)
    (hadmitted : memOk s.params ⟨.write, (s.rx c).buf + (s.rx c).idx⟩ = true) :
    rxStep s c t = .going ((storeByte (afterLine s c) ((s.rx c).buf + (s.rx c).idx) b).setRx c
      (checkComplete ((s.rx c).stored t) (s.timeout c) t)) := by
  simp [rxStep, afterLine, h, hadmitted, RxSide.stored]

@[simp] theorem afterLine_params (s : State) (c : Chan) : (afterLine s c).params = s.params := by
  unfold afterLine
  split <;> rfl

@[simp] theorem afterLine_mem (s : State) (c : Chan) : (afterLine s c).mem = s.mem := by
  unfold afterLine
  split <;> rfl

@[simp] theorem afterLine_rx (s : State) (c d : Chan) : (afterLine s c).rx d = s.rx d := by
  unfold afterLine
  split <;> rfl

@[simp] theorem afterLine_tx (s : State) (c d : Chan) : (afterLine s c).tx d = s.tx d := by
  unfold afterLine
  split <;> rfl

/-- One HwRxReady answer is used up, and one HwRead answer if it was 1 (R251). -/
theorem afterLine_line (s : State) (c : Chan) : (afterLine s c).line c = { s.line c with
    rxReady := (draw (Config.freeRxReady c) (s.line c).rxReady).2
    read := if (hwRxReady s c).1 then (draw (Config.freeRead c) (s.line c).read).2 else (s.line c).read } := by
  unfold afterLine
  split <;> simp [hwRead, hwRxReady]

namespace SameReceive

variable {c : Chan} {s t : State} (h : SameReceive c s t)
include h

theorem timeout : t.timeout c = s.timeout c := by simp only [State.timeout, h.params]

theorem acceptedByte_eq : acceptedByte (t.rx c) (hwRxReady t c).1 (hwRead (hwRxReady t c).2 c).1 =
    acceptedByte (s.rx c) (hwRxReady s c).1 (hwRead (hwRxReady s c).2 c).1 := by
  rw [h.rx, h.hwRxReady_fst, h.hwRead_fst]

theorem afterLine : SameReceive c (afterLine s c) (afterLine t c) where
  params := by simpa using h.params
  mem := by simpa using h.mem
  rx := by simpa using h.rx
  rxReady := by simp only [afterLine_line, h.rxReady]
  read := by simp only [afterLine_line, h.hwRxReady_fst, h.read]

theorem setRx (r : RxSide) : SameReceive c (s.setRx c r) (t.setRx c r) := { h with rx := by simp }

theorem storeByte (a : Word) (b : Byte) : SameReceive c (storeByte s a b) (storeByte t a b) :=
  { h with mem := by simp [h.mem] }

/-- The receive half goes on alike from states that are the same to it. -/
theorem rxStep_going {u : Timestamp} {s' : State} (hgo : rxStep s c u = .going s') :
    ∃ t', rxStep t c u = .going t' ∧ SameReceive c s' t' := by
  obtain ⟨hnone, heq⟩ | ⟨b, hb, hadmitted, heq⟩ | ⟨b, -, -, heq⟩ := rxStep_cases s c u
  · cases heq.symm.trans hgo
    refine ⟨_, rxStep_of_none u (h.acceptedByte_eq.trans hnone), ?_⟩
    rw [h.rx, h.timeout]
    exact h.afterLine.setRx _
  · cases heq.symm.trans hgo
    refine ⟨_, rxStep_of_stored u (h.acceptedByte_eq.trans hb) (by rwa [h.params, h.rx]), ?_⟩
    rw [h.rx, h.timeout]
    exact (h.afterLine.storeByte _ b).setRx _
  · nomatch heq.symm.trans hgo

end SameReceive

/-- A POLL whose transmit half goes on answers OK and does to the slot, memory and the line's receive answers what its receive
half alone would have done (R300). -/
theorem exec_poll_sameReceive {s s' : State} {c : Chan} {sec ns : Word} (hns : ns.toNat < nsPerS)
    (hsend : (s.tx c).state = .draining → memOk s.params ⟨.read, (s.tx c).curAddr⟩ = true)
    (hgo : rxStep s c ⟨sec, ns⟩ = .going s') :
    ∃ t, exec (.poll c sec ns) s = .next t ∧ t.resp = some ⟨.ok, 0, 0, 0⟩ ∧ SameReceive c s' t := by
  obtain ⟨s1, htx⟩ := txStep_going hsend
  have hsame := txStep_sameReceive s c
  rw [htx] at hsame
  obtain ⟨s2, hrx, hkept⟩ := hsame.rxStep_going hgo
  exact ⟨_, exec_poll_of_going hns htx hrx, rfl, { hkept with }⟩

/-! ## The check of R252 -/

/-- CFG.TIMEOUT[c] is valid (R12, R50). -/
theorem State.timeout_valid {s : State} (h : s.params.wf = true) (c : Chan) : tsValid (s.timeout c) := by
  simp only [Params.wf, Bool.and_eq_true, List.all_eq_true, decide_eq_true_eq] at h
  exact h.2 _ (Vector.mem_toList_iff.mpr (Vector.getElem_mem c.isLt))

/-- Of valid times, `tscmp` of `tsdelta` compares the silence in nanoseconds modulo the wrap period (R162, R164, R252). -/
theorem idleElapsed_iff {r : RxSide} {timeout t : Timestamp} (hlast : tsValid r.last) (htimeout : tsValid timeout)
    (ht : tsValid t) : idleElapsed r timeout t = true ↔
      1 ≤ r.idx.toNat ∧ tsValue timeout ≤ (tsValue t + wrapPeriod - tsValue r.last) % wrapPeriod := by
  rw [← tsValue_tsdelta ht hlast, idleElapsed, tscmp_eq_compare_tsValue (tsdelta_valid ht hlast) htimeout]
  simp only [Bool.and_eq_true, decide_eq_true_eq, ne_eq, Nat.compare_eq_lt, Nat.not_lt]

/-- At the moment a byte is stored no silence has passed, and only the timeout {0, 0} is no longer than that (R252). -/
theorem idleElapsed_at_last {r : RxSide} {timeout : Timestamp} (hidx : 1 ≤ r.idx.toNat) (hlast : tsValid r.last) :
    idleElapsed r timeout r.last = true ↔ timeout = ⟨0, 0⟩ := by
  have hzero : tsdelta r.last r.last = ⟨0, 0⟩ := (deltaUndoesAddition r.last r.last hlast hlast).1
  have hnumber : tscmp ⟨0, 0⟩ timeout ≠ .lt ↔ timeout = ⟨0, 0⟩ := by
    rw [tscmp_eq_compare_words, ne_eq, Nat.compare_eq_lt, ← tsNumber_inj timeout.ns.isLt (b := ⟨0, 0⟩) (by decide)]
    simp [tsNumber]
  rw [idleElapsed, hzero, Bool.and_eq_true, decide_eq_true_eq, decide_eq_true_eq, hnumber]
  exact and_iff_right hidx

theorem checkComplete_of_full {r : RxSide} (timeout t : Timestamp) (harmed : r.state = .armed) (hfull : r.idx = r.cap) :
    checkComplete r timeout t = completeRx r r.cap := (if_pos harmed).trans (if_pos hfull)

theorem checkComplete_of_not_full {r : RxSide} (timeout t : Timestamp) (harmed : r.state = .armed)
    (hmore : r.idx ≠ r.cap) :
    checkComplete r timeout t = if idleElapsed r timeout t = true then completeRx r r.idx else r :=
  (if_pos harmed).trans (if_neg hmore)

/-- What the check makes of a slot that has room: it completes on the silence alone (R252). -/
theorem checkComplete_of_room {r : RxSide} {timeout t : Timestamp} (hroom : r.state = .armed → r.idx ≠ r.cap)
    (hlast : tsValid r.last) (htimeout : tsValid timeout) (ht : tsValid t) :
    checkComplete r timeout t =
      if r.state = .armed ∧ 1 ≤ r.idx.toNat ∧
          tsValue timeout ≤ (tsValue t + wrapPeriod - tsValue r.last) % wrapPeriod then
        completeRx r r.idx
      else r := by
  cases hstate : r.state with
  | unarmed => simp [checkComplete, hstate]
  | armed =>
    rw [checkComplete_of_not_full timeout t hstate (hroom hstate)]
    exact if_congr ((idleElapsed_iff hlast htimeout ht).trans (and_iff_right rfl).symm) rfl rfl

/-- What the check makes of a slot that has just stored a byte (R251, R252). -/
theorem checkComplete_of_stored {r : RxSide} {timeout u : Timestamp} (harmed : r.state = .armed)
    (hroom : r.idx.toNat < r.cap.toNat) (hu : tsValid u) :
    checkComplete (r.stored u) timeout u =
      if r.idx + 1 = r.cap then completeRx (r.stored u) r.cap
      else if timeout = ⟨0, 0⟩ then completeRx (r.stored u) (r.idx + 1)
      else r.stored u := by
  split
  next hfull => exact checkComplete_of_full (r := r.stored u) timeout u harmed hfull
  next hmore =>
    have hpos : 1 ≤ (r.idx + 1).toNat := by bv_omega
    exact (checkComplete_of_not_full (r := r.stored u) timeout u harmed hmore).trans
      (if_congr (idleElapsed_at_last (r := r.stored u) hpos hu) rfl rfl)

/-- Settles O38: the byte accepted is stored, and the check completes a full slot, or one with the timeout {0, 0}. -/
theorem pollStoresTheByte : Obligations.PollStoresTheByte := by
  intro s c sec ns b hns hwf hgood harmed hready hread hadmitted hsend
  have hbyte : acceptedByte (s.rx c) (hwRxReady s c).1 (hwRead (hwRxReady s c).2 c).1 = some b := by
    simp [acceptedByte, harmed, hready, hread]
  obtain ⟨-, -, -, hslot⟩ := hgood
  obtain ⟨-, hroom, -⟩ := hslot harmed
  obtain ⟨t, hexec, hresp, hsame⟩ := exec_poll_sameReceive hns hsend (rxStep_of_stored ⟨sec, ns⟩ hbyte hadmitted)
  have hmem (x : Nat) : memRead t.mem x =
      if x = ((s.rx c).buf + (s.rx c).idx).toNat then b else memRead s.mem x := by
    rw [hsame.mem, setRx_mem, storeByte_mem, afterLine_mem, memRead_memWrite hwf]
  refine ⟨t, hexec, hresp, (hmem _).trans (if_pos rfl), fun x hx => (hmem x).trans (if_neg hx), ?_⟩
  rw [hsame.rx, setRx_rx_same, checkComplete_of_stored harmed hroom hns]
  split
  next hfull => rw [← hfull]; rfl
  next => rfl

/-- A POLL that stores no byte leaves memory, and gives a slot with room the check of R252 as it was. -/
theorem exec_poll_stores_nothing {s : State} {c : Chan} {sec ns : Word} (hns : ns.toNat < nsPerS)
    (hwf : s.params.wf = true) (hlast : tsValid (s.rx c).last)
    (hroom : (s.rx c).state = .armed → (s.rx c).idx ≠ (s.rx c).cap)
    (hsilent : (s.rx c).state = .unarmed ∨ (hwRxReady s c).1 = false ∨ (hwRead (hwRxReady s c).2 c).1.2 = true)
    (hsend : (s.tx c).state = .draining → memOk s.params ⟨.read, (s.tx c).curAddr⟩ = true) :
    ∃ t, exec (.poll c sec ns) s = .next t ∧ t.resp = some ⟨.ok, 0, 0, 0⟩ ∧ t.mem = s.mem ∧
      t.rx c = if (s.rx c).state = .armed ∧ 1 ≤ (s.rx c).idx.toNat ∧
          tsValue (s.timeout c) ≤ (tsValue ⟨sec, ns⟩ + wrapPeriod - tsValue (s.rx c).last) % wrapPeriod then
        completeRx (s.rx c) (s.rx c).idx
      else s.rx c := by
  have hnone := rxStep_of_none ⟨sec, ns⟩ (acceptedByte_eq_none_iff.mpr hsilent)
  obtain ⟨t, hexec, hresp, hsame⟩ := exec_poll_sameReceive hns hsend hnone
  refine ⟨t, hexec, hresp, ?_, ?_⟩
  · rw [hsame.mem, setRx_mem, afterLine_mem]
  · rw [hsame.rx, setRx_rx_same, checkComplete_of_room hroom hlast (State.timeout_valid hwf c) hns]

/-- Settles O39: R49 gives an armed slot room. -/
theorem silenceEndsTheReception : Obligations.SilenceEndsTheReception := by
  intro s c sec ns hns hwf hgood hsilent hsend
  obtain ⟨hlast, -, -, hslot⟩ := hgood
  have hroom (harmed : (s.rx c).state = .armed) : (s.rx c).idx ≠ (s.rx c).cap := fun hfull =>
    (hslot harmed).2.1.ne (congrArg BitVec.toNat hfull)
  exact exec_poll_stores_nothing hns hwf hlast hroom hsilent hsend

/-! ## The arming time (R260) -/

theorem setRx_setRx (s : State) (c : Chan) (r r' : RxSide) : (s.setRx c r).setRx c r' = s.setRx c r' := by
  have hchan : (s.setRx c r).chan c = { s.chan c with rx := r } := by rw [setRx_chan, if_pos rfl]
  simp only [State.setRx] at hchan ⊢
  rw [hchan, Vector.set_set]

theorem setTx_setRx (s : State) (c : Chan) (x : TxSide) (r : RxSide) :
    (s.setRx c r).setTx c x = (s.setTx c x).setRx c r := by
  have hrx : (s.setRx c r).chan c = { s.chan c with rx := r } := by rw [setRx_chan, if_pos rfl]
  have htx : (s.setTx c x).chan c = { s.chan c with tx := x } := by rw [setTx_chan, if_pos rfl]
  simp only [State.setRx, State.setTx] at hrx htx ⊢
  rw [hrx, htx, Vector.set_set, Vector.set_set]

theorem setRx_self (s : State) (c : Chan) : s.setRx c (s.rx c) = s := by
  have hself : s.ch.set c.val { s.chan c with rx := s.rx c } = s.ch := Vector.set_getElem_self c.isLt
  rw [State.setRx, hself]

/-- The other slot rides through a run of effects that does not touch it. -/
def Progress.setRx (c : Chan) (r : RxSide) : Progress → Progress
  | .going s => .going (s.setRx c r)
  | .hung s a => .hung (s.setRx c r) a

/-- The transmit half does not look at the slot (R203, R300). -/
theorem txStep_setRx (s : State) (c : Chan) (r : RxSide) : txStep (s.setRx c r) c = (txStep s c).setRx c r := by
  have htx : (s.setRx c r).tx c = s.tx c := setRx_tx s c c r
  obtain ⟨hidle, h⟩ | ⟨hdraining, hready, h⟩ | ⟨hdraining, hready, hmem, h⟩ | ⟨hdraining, hready, hmem, h⟩ :=
    txStep_cases s c <;> rw [h]
  · exact txStep_of_idle (htx ▸ hidle)
  · exact txStep_of_not_ready (htx ▸ hdraining) hready
  · rw [← htx] at hdraining hmem ⊢
    exact txStep_of_refused hdraining hready hmem
  · rw [← htx] at hdraining hmem ⊢
    rw [txStep_of_admitted hdraining hready hmem, Progress.setRx, ← setTx_setRx]
    rfl

theorem afterLine_setRx (s : State) (c : Chan) (r : RxSide) :
    afterLine (s.setRx c r) c = (afterLine s c).setRx c r := by
  unfold afterLine
  change (if (hwRxReady s c).1 = true then _ else _) = _
  split <;> rfl

theorem checkComplete_idx (r : RxSide) (timeout t : Timestamp) : (checkComplete r timeout t).idx = r.idx := by
  obtain ⟨-, h⟩ | ⟨-, -, h⟩ | ⟨-, -, -, h⟩ | ⟨-, -, -, h⟩ := checkComplete_cases r timeout t <;> rw [h] <;> rfl

/-- The slot with another last-activity time (R46). -/
def RxSide.withLast (r : RxSide) (u : Timestamp) : RxSide := { r with last := u }

/-- While no byte is stored the detector does not look at the last-activity time (R252, R260). -/
theorem checkComplete_withLast {r : RxSide} (hidx : r.idx = 0) (timeout t u : Timestamp) :
    checkComplete (r.withLast u) timeout t = (checkComplete r timeout t).withLast u := by
  have hnever (r' : RxSide) (h : r'.idx = 0) : idleElapsed r' timeout t = false := by simp [idleElapsed, h]
  simp only [checkComplete, hnever r hidx, hnever (r.withLast u) hidx, Bool.false_eq_true, if_false]
  change (if r.state = .armed then if r.idx = r.cap then _ else _ else _) = _
  split
  · split <;> rfl
  · rfl

/-- `t` is `s` with another last-activity time in the slot of `c`, the same one once a byte is stored (R46, R260). -/
def OtherArmingTime (c : Chan) (s t : State) : Prop :=
  ∃ u, t = s.setRx c ((s.rx c).withLast u) ∧ ((s.rx c).idx ≠ 0 → u = (s.rx c).last)

namespace OtherArmingTime

theorem refl (c : Chan) (s : State) : OtherArmingTime c s s := ⟨(s.rx c).last, (setRx_self s c).symm, fun _ => rfl⟩

theorem of_idx_zero {c : Chan} {s : State} (h : (s.rx c).idx = 0) (u : Timestamp) :
    OtherArmingTime c s (s.setRx c ((s.rx c).withLast u)) := ⟨u, rfl, fun hne => absurd h hne⟩

theorem ret {c : Chan} {s t : State} (h : OtherArmingTime c s t) (st : Status) (r0 r1 : Word) :
    OtherArmingTime c (s.ret st r0 r1) (t.ret st r0 r1) := by
  obtain ⟨u, rfl, hu⟩ := h
  exact ⟨u, rfl, hu⟩

theorem hang {c : Chan} {s t : State} (h : OtherArmingTime c s t) (a : Access) :
    OtherArmingTime c (s.hang a) (t.hang a) := by
  obtain ⟨u, rfl, hu⟩ := h
  exact ⟨u, rfl, hu⟩

end OtherArmingTime

section
variable {s : State} {c : Chan} (hidx : (s.rx c).idx = 0) (t u : Timestamp)
include hidx

/-- The arming time is carried along by a receive half that stores no byte, and overwritten by one that does (R251, R260). -/
theorem rxStep_otherArmingTime :
    OtherArmingTime c (conclude (rxStep s c t)) (conclude (rxStep (s.setRx c ((s.rx c).withLast u)) c t)) := by
  have hbyte : acceptedByte ((s.setRx c ((s.rx c).withLast u)).rx c) (hwRxReady s c).1 (hwRead (hwRxReady s c).2 c).1 =
      acceptedByte (s.rx c) (hwRxReady s c).1 (hwRead (hwRxReady s c).2 c).1 := by rw [setRx_rx_same]; rfl
  obtain ⟨hnone, h⟩ | ⟨b, hb, hadmitted, -⟩ | ⟨b, hb, hrefused, h⟩ := rxStep_cases s c t
  · rw [h, rxStep_of_none t (hbyte.trans hnone), setRx_rx_same, afterLine_setRx, setRx_setRx, setRx_timeout,
      checkComplete_withLast hidx]
    have hother := OtherArmingTime.of_idx_zero (c := c)
      (s := (afterLine s c).setRx c (checkComplete (s.rx c) (s.timeout c) t))
      (by rw [setRx_rx_same, checkComplete_idx, hidx]) u
    rw [setRx_rx_same, setRx_setRx] at hother
    exact hother.ret .ok 0 0
  · have hsame : rxStep (s.setRx c ((s.rx c).withLast u)) c t = rxStep s c t := by
      rw [rxStep_of_stored t (hbyte.trans hb) (by rwa [setRx_rx_same]), setRx_rx_same, afterLine_setRx,
        rxStep_of_stored t hb hadmitted]
      exact congrArg Progress.going (setRx_setRx (storeByte (afterLine s c) _ b) c _ _)
    rw [hsame]
    exact .refl c _
  · obtain ⟨harmed, hready, hgot⟩ := acceptedByte_some hb
    have hhung : rxStep (s.setRx c ((s.rx c).withLast u)) c t =
        .hung ((afterLine s c).setRx c ((s.rx c).withLast u)) ⟨.write, (s.rx c).buf + (s.rx c).idx⟩ := by
      rw [rxStep_of_refused (s := s.setRx c ((s.rx c).withLast u)) (by rwa [setRx_rx_same]) hready (congrArg Prod.snd hgot)
        (by rwa [setRx_rx_same]), setRx_rx_same, afterLine_setRx]
      rfl
    have hother := OtherArmingTime.of_idx_zero (c := c) (s := afterLine s c) (by rwa [afterLine_rx]) u
    rw [afterLine_rx] at hother
    rw [h, hhung]
    exact hother.hang _

theorem pollBoth_otherArmingTime :
    OtherArmingTime c (conclude (pollBoth s c t)) (conclude (pollBoth (s.setRx c ((s.rx c).withLast u)) c t)) := by
  have hslot := (txStep_sameReceive s c).rx
  have htx' := txStep_setRx s c ((s.rx c).withLast u)
  cases htx : txStep s c with
  | going s1 =>
    rw [htx] at hslot htx'
    change s1.rx c = s.rx c at hslot
    rw [pollBoth_of_going t htx, pollBoth_of_going t htx', ← hslot]
    exact rxStep_otherArmingTime (by rwa [hslot]) t u
  | hung s1 a =>
    rw [htx] at hslot htx'
    change s1.rx c = s.rx c at hslot
    rw [pollBoth_of_hung t htx, pollBoth_of_hung t htx', ← hslot]
    exact (OtherArmingTime.of_idx_zero (by rwa [hslot]) u).hang a

end

theorem execPoll_of_invalid {c : Chan} {sec ns : Word} {s : State} (h : nsPerS ≤ ns.toNat) :
    execPoll c sec ns s = .next (s.ret .illegal 0 0) := by
  rw [execPoll, tsOperand_of_invalid h, retIllegal_eq]

theorem exec_poll_otherArmingTime {s : State} {c : Chan} (hidx : (s.rx c).idx = 0) (sec ns : Word) (u : Timestamp) :
    ∃ t1 t2, exec (.poll c sec ns) s = .next t1 ∧
      exec (.poll c sec ns) (s.setRx c ((s.rx c).withLast u)) = .next t2 ∧ OtherArmingTime c t1 t2 := by
  obtain hvalid | hinvalid := Nat.lt_or_ge ns.toNat nsPerS
  · exact ⟨_, _, execPoll_of_valid hvalid, execPoll_of_valid hvalid, pollBoth_otherArmingTime hidx _ u⟩
  · exact ⟨_, _, execPoll_of_invalid hinvalid, execPoll_of_invalid hinvalid,
      (OtherArmingTime.of_idx_zero hidx u).ret _ _ _⟩

/-- Settles O50: the two POLLs end in states that differ in an arming time no stored byte has replaced. -/
theorem theArmingTimeIsNeverRead : Obligations.TheArmingTimeIsNeverRead := by
  intro s c sec ns u hidx
  obtain ⟨t1, t2, h1, h2, v, rfl, hv⟩ := exec_poll_otherArmingTime hidx sec ns u
  refine ⟨t1, _, h1, h2, (setRx_tx _ c c _).symm, rfl, rfl, rfl, rfl, by rw [setRx_rx_same]; rfl, fun hne => ?_⟩
  rw [setRx_rx_same, hv hne]
  rfl

end Sys2Proof.Machine
end

section
/-! A whole reception (R258, R259, R261): each POLL that finds a byte moves the slot one on, until the buffer is full or the
line falls silent. O43, O44. -/

namespace Sys2Proof.Machine

open Sys2Proof

/-! ## A run of byte writes (R85) -/

/-- Memory after the bytes were written at `a`, `a + 1`, ... in that order, each address modulo 2^32. -/
def writeBytes (m : List Host.Cell) (a : Word) : List Byte → List Host.Cell
  | [] => m
  | b :: bs => writeBytes (memWrite m a.toNat b) (a + 1) bs

theorem add_one_add_ofNat (a : Word) (k : Nat) : a + 1 + BitVec.ofNat 32 k = a + BitVec.ofNat 32 (k + 1) :=
  (add_ofNat_add_ofNat a 1 k).trans (by rw [Nat.add_comm])

theorem writeBytes_append (m : List Host.Cell) (a : Word) (xs ys : List Byte) :
    writeBytes m a (xs ++ ys) = writeBytes (writeBytes m a xs) (a + BitVec.ofNat 32 xs.length) ys := by
  induction xs generalizing m a with
  | nil => rw [List.nil_append, writeBytes, List.length_nil, BitVec.add_zero]
  | cons x xs ih => rw [List.cons_append, writeBytes, writeBytes, ih, add_one_add_ofNat, List.length_cons]

/-- An address none of the bytes went to reads as before. -/
theorem memRead_writeBytes_of_ne {m : List Host.Cell} (hwf : memWf m = true) {a : Word} {bs : List Byte} {x : Nat}
    (hx : ∀ k < bs.length, x ≠ (a + BitVec.ofNat 32 k).toNat) : memRead (writeBytes m a bs) x = memRead m x := by
  induction bs generalizing m a with
  | nil => rfl
  | cons b bs ih =>
    have hfirst : x ≠ a.toNat := by simpa using hx 0 (Nat.zero_lt_succ _)
    have hrest (k : Nat) (hk : k < bs.length) : x ≠ (a + 1 + BitVec.ofNat 32 k).toNat := by
      rw [add_one_add_ofNat]
      exact hx (k + 1) (Nat.succ_lt_succ hk)
    rw [writeBytes, ih (memWrite_wf hwf a.isLt b) hrest, memRead_memWrite hwf, if_neg hfirst]

/-- Byte `k` of a run that does not come round to its beginning is read back `k` addresses on. -/
theorem memRead_writeBytes {m : List Host.Cell} (hwf : memWf m = true) {a : Word} {bs : List Byte}
    (hlength : bs.length ≤ 2 ^ 32) {k : Nat} (hk : k < bs.length) :
    memRead (writeBytes m a bs) (a + BitVec.ofNat 32 k).toNat = bs[k] := by
  induction bs generalizing m a k with
  | nil => nomatch hk
  | cons b bs ih =>
    rw [List.length_cons] at hlength
    have hwf' := memWrite_wf hwf a.isLt b
    cases k with
    | zero =>
      have hpast (j : Nat) (hj : j < bs.length) : a.toNat ≠ (a + 1 + BitVec.ofNat 32 j).toNat := by
        have := a.isLt
        rw [add_one_add_ofNat, BitVec.toNat_add, BitVec.toNat_ofNat]
        omega
      rw [BitVec.add_zero, writeBytes, memRead_writeBytes_of_ne hwf' hpast, memRead_memWrite hwf, if_pos rfl,
        List.getElem_cons_zero]
    | succ k =>
      rw [← add_one_add_ofNat, writeBytes, ih hwf' (by omega) (Nat.lt_of_succ_lt_succ hk), List.getElem_cons_succ]

/-! ## The line's queued answers (R17) -/

theorem hwRxReady_of_queue {s : State} {c : Chan} {a : Bool} {as : List Bool} (h : (s.line c).rxReady.queue = a :: as) :
    (hwRxReady s c).1 = a := by
  simp only [hwRxReady, draw_of_queue _ _ a as h]

theorem hwRead_of_queue {s : State} {c : Chan} {g : Byte × Bool} {gs : List (Byte × Bool)}
    (h : (s.line c).read.queue = g :: gs) : (hwRead (hwRxReady s c).2 c).1 = g := by
  rw [hwRead_hwRxReady_fst, draw_of_queue _ _ g gs h]

/-- The answers left after a POLL of a line with a byte. -/
theorem afterLine_of_queues {s : State} {c : Chan} {as : List Bool} {g : Byte × Bool} {gs : List (Byte × Bool)}
    (hready : (s.line c).rxReady.queue = true :: as) (hread : (s.line c).read.queue = g :: gs) :
    ((afterLine s c).line c).rxReady.queue = as ∧ ((afterLine s c).line c).read.queue = gs := by
  rw [afterLine_line, hwRxReady_of_queue hready, draw_of_queue _ _ true as hready, draw_of_queue _ _ g gs hread]
  exact ⟨rfl, rfl⟩

/-! ## POLLs that each find a byte (R251, R252) -/

/-- Channel `c` transmits nothing, its slot is ARMED, its timeout is not {0, 0}, and its line is about to give the bytes, for
which the buffer has room at admitted addresses. -/
structure Receiving (c : Chan) (bytes : List Byte) (readies : List Bool) (reads : List (Byte × Bool)) (s : State) : Prop where
  idle     : (s.tx c).state = .idle
  armed    : (s.rx c).state = .armed
  timeout  : s.timeout c ≠ ⟨0, 0⟩
  room     : (s.rx c).idx.toNat + bytes.length ≤ (s.rx c).cap.toNat
  ready    : (s.line c).rxReady.queue = List.replicate bytes.length true ++ readies
  read     : (s.line c).read.queue = bytes.map (fun b => (b, false)) ++ reads
  admitted : ∀ k < bytes.length, memOk s.params ⟨.write, (s.rx c).buf + (s.rx c).idx + BitVec.ofNat 32 k⟩ = true

/-- From `s` to `t` the slot of `c` took the bytes, the last of them at time `last`, and is as it was otherwise. -/
structure Captured (c : Chan) (bytes : List Byte) (last : Timestamp) (s t : State) : Prop where
  rx     : t.rx c = { s.rx c with idx := (s.rx c).idx + BitVec.ofNat 32 bytes.length, last := last }
  mem    : t.mem = writeBytes s.mem ((s.rx c).buf + (s.rx c).idx) bytes
  params : t.params = s.params

theorem Captured.refl (c : Chan) (s : State) : Captured c [] (s.rx c).last s s :=
  ⟨by rw [List.length_nil, BitVec.add_zero], rfl, rfl⟩

theorem Captured.trans {c : Chan} {xs ys : List Byte} {u v : Timestamp} {s t w : State} (h : Captured c xs u s t)
    (k : Captured c ys v t w) : Captured c (xs ++ ys) v s w where
  rx := by rw [k.rx, h.rx, add_ofNat_add_ofNat, List.length_append]
  mem := by rw [k.mem, h.mem, h.rx, writeBytes_append, BitVec.add_assoc]
  params := k.params.trans h.params

theorem Captured.idx_toNat {c : Chan} {bytes : List Byte} {last : Timestamp} {s t : State} (h : Captured c bytes last s t)
    (hroom : (s.rx c).idx.toNat + bytes.length < (s.rx c).cap.toNat) :
    (t.rx c).idx.toNat = (s.rx c).idx.toNat + bytes.length := by
  have hcap := (s.rx c).cap.isLt
  simp only [h.rx, BitVec.toNat_add, BitVec.toNat_ofNat]
  omega

namespace Receiving

variable {c : Chan} {b : Byte} {bs : List Byte} {readies : List Bool} {reads : List (Byte × Bool)} {s : State} {u : Timestamp}

/-- One POLL stores the next byte and completes the slot if that fills it (R252, R254). -/
theorem poll (h : Receiving c (b :: bs) readies reads s) (hu : tsValid u) :
    ∃ t, exec (.poll c u.sec u.ns) s = .next t ∧ t.params = s.params ∧ t.tx c = s.tx c ∧
      t.mem = writeBytes s.mem ((s.rx c).buf + (s.rx c).idx) [b] ∧
      t.rx c = (if (s.rx c).idx + 1 = (s.rx c).cap then completeRx ((s.rx c).stored u) (s.rx c).cap
        else (s.rx c).stored u) ∧
      (t.line c).rxReady.queue = List.replicate bs.length true ++ readies ∧
      (t.line c).read.queue = bs.map (fun b => (b, false)) ++ reads := by
  have hbyte : acceptedByte (s.rx c) (hwRxReady s c).1 (hwRead (hwRxReady s c).2 c).1 = some b := by
    simp [acceptedByte, h.armed, hwRxReady_of_queue h.ready, hwRead_of_queue h.read]
  have hadmitted : memOk s.params ⟨.write, (s.rx c).buf + (s.rx c).idx⟩ = true := by
    simpa using h.admitted 0 (Nat.zero_lt_succ _)
  have hroom : (s.rx c).idx.toNat < (s.rx c).cap.toNat :=
    Nat.lt_of_lt_of_le (Nat.lt_add_of_pos_right (Nat.zero_lt_succ _)) h.room
  obtain ⟨hready, hread⟩ := afterLine_of_queues h.ready h.read
  refine ⟨_, exec_poll_of_going hu (txStep_of_idle h.idle) (rxStep_of_stored u hbyte hadmitted), ?_, ?_, ?_, ?_,
    hready, hread⟩
  · exact afterLine_params s c
  · rw [ret_tx, setRx_tx, storeByte_tx, afterLine_tx]
  · rw [ret_mem, setRx_mem, storeByte_mem, afterLine_mem]
    rfl
  · rw [ret_rx, setRx_rx_same, checkComplete_of_stored h.armed hroom hu, if_neg h.timeout]

/-- The POLL of a byte that does not fill the buffer leaves the slot ready for the next. -/
theorem poll_more (h : Receiving c (b :: bs) readies reads s) (hu : tsValid u)
    (hmore : (s.rx c).idx.toNat + 1 < (s.rx c).cap.toNat) :
    ∃ t, exec (.poll c u.sec u.ns) s = .next t ∧ Captured c [b] u s t ∧ Receiving c bs readies reads t := by
  obtain ⟨t, hexec, hparams, htx, hmem, hrx, hready, hread⟩ := h.poll hu
  have hnext : ((s.rx c).idx + 1).toNat = (s.rx c).idx.toNat + 1 := by bv_omega
  have hnotFull : (s.rx c).idx + 1 ≠ (s.rx c).cap := fun hfull => by rw [← hfull] at hmore; omega
  rw [if_neg hnotFull] at hrx
  have hroom := h.room
  refine ⟨t, hexec, ⟨hrx, hmem, hparams⟩, ⟨htx ▸ h.idle, hrx ▸ h.armed, ?_, ?_, hready, hread, fun k hk => ?_⟩⟩
  · simpa only [State.timeout, hparams] using h.timeout
  · rw [hrx]
    change ((s.rx c).idx + 1).toNat + bs.length ≤ (s.rx c).cap.toNat
    rw [List.length_cons] at hroom
    omega
  · rw [hparams, hrx, RxSide.stored, ← BitVec.add_assoc, add_one_add_ofNat]
    exact h.admitted (k + 1) (Nat.succ_lt_succ hk)

end Receiving

theorem execAll_append {is js : List Instr} {s t : State} (h : execAll is s = .next t) :
    execAll (is ++ js) s = execAll js t := by
  induction is generalizing s with
  | nil => cases h; rfl
  | cons i is ih =>
    simp only [List.cons_append, execAll] at h ⊢
    cases hexec : exec i s with
    | next s' => simp only [hexec] at h; exact ih h
    | fault r => simp only [hexec] at h; nomatch h
    | refused r => simp only [hexec] at h; nomatch h

/-- POLLs that each find a byte, short of filling the buffer. -/
theorem execAll_polls_captured {c : Chan} {rest : List Byte} {readies : List Bool} {reads : List (Byte × Bool)}
    (times : List Timestamp) : ∀ (bytes : List Byte) {s : State}, (∀ u ∈ times, tsValid u) → times.length = bytes.length →
      Receiving c (bytes ++ rest) readies reads s → (s.rx c).idx.toNat + bytes.length < (s.rx c).cap.toNat →
      ∃ t, execAll (times.map fun u => .poll c u.sec u.ns) s = .next t ∧
        Captured c bytes (times.getLastD (s.rx c).last) s t ∧ Receiving c rest readies reads t := by
  induction times with
  | nil =>
    rintro (_ | ⟨b, bs⟩) s - hlength h -
    · exact ⟨s, rfl, .refl c s, h⟩
    · nomatch hlength
  | cons u us ih =>
    rintro (_ | ⟨b, bs⟩) s hvalid hlength h hshort
    · nomatch hlength
    rw [List.length_cons] at hshort
    obtain ⟨hu, hus⟩ := List.forall_mem_cons.mp hvalid
    obtain ⟨t, hexec, hcaptured, hnext⟩ := h.poll_more hu (by omega)
    have hidx : (t.rx c).idx.toNat = (s.rx c).idx.toNat + 1 := hcaptured.idx_toNat (by rw [List.length_singleton]; omega)
    have hcap : (t.rx c).cap = (s.rx c).cap := by rw [hcaptured.rx]
    have hlast : (t.rx c).last = u := by rw [hcaptured.rx]
    obtain ⟨w, hexec', hcaptured', hnext'⟩ := ih bs hus (Nat.succ.inj hlength) hnext (by rw [hidx, hcap]; omega)
    rw [hlast] at hcaptured'
    refine ⟨w, ?_, ?_, hnext'⟩
    · simpa only [List.map_cons, execAll, hexec] using hexec'
    · rw [List.getLastD_cons]
      exact hcaptured.trans hcaptured'

/-! ## The two endings (R252, R254) -/

theorem buf_add_idx_zero {r : RxSide} (h : r.idx = 0) : r.buf + r.idx = r.buf := by rw [h]; exact BitVec.add_zero _

/-- Settles O43: all bytes but the last are captured, and the last one's POLL completes the full slot. -/
theorem fullBufferEndsTheFrame : Obligations.FullBufferEndsTheFrame := by
  intro s c times bytes readies reads hvalid hlength hidle hwf harmed hidx hcap hgood htimeout hready hread hadmitted
  have hbuf := buf_add_idx_zero hidx
  have hzero : (s.rx c).idx.toNat = 0 := congrArg BitVec.toNat hidx
  have hlt := (s.rx c).cap.isLt
  have h : Receiving c bytes readies reads s := ⟨hidle, harmed, htimeout, by omega, hready, hread, by rwa [hbuf]⟩
  obtain rfl | ⟨init, b, rfl⟩ := bytes.eq_nil_or_concat'
  · exact absurd hcap (Nat.ne_of_gt hgood.1)
  obtain rfl | ⟨us, u, rfl⟩ := times.eq_nil_or_concat'
  · simp at hlength
  have hlength' : us.length = init.length := by simpa using hlength
  have hcap' : (s.rx c).cap.toNat = init.length + 1 := by simpa using hcap
  obtain ⟨t, hexec, hcaptured, hlast⟩ :=
    execAll_polls_captured us init (fun v hv => hvalid v (List.mem_append_left _ hv)) hlength' h (by omega)
  obtain ⟨w, hexec', -, -, hmem, hrx, -⟩ := hlast.poll (hvalid u (List.mem_append_right _ (List.mem_singleton_self u)))
  have hcount := hcaptured.idx_toNat (by omega)
  have hkept : (t.rx c).cap = (s.rx c).cap := by rw [hcaptured.rx]
  have hfull : (t.rx c).idx + 1 = (t.rx c).cap := by bv_omega
  have hmemory : w.mem = writeBytes s.mem (s.rx c).buf (init ++ [b]) := by
    rw [hmem, hcaptured.mem, hcaptured.rx, writeBytes_append, ← BitVec.add_assoc, hbuf]
  rw [if_pos hfull, hcaptured.rx] at hrx
  refine ⟨w, ?_, by rw [hrx]; rfl, by rw [hrx]; rfl, by rw [hrx]; rfl, fun k hk => ?_, fun x hx => ?_⟩
  · rw [List.map_append, execAll_append hexec]
    simp only [List.map_cons, List.map_nil, execAll, hexec']
  · rw [hmemory]
    exact memRead_writeBytes hwf (by omega) hk
  · rw [hmemory]
    exact memRead_writeBytes_of_ne hwf hx

/-- Settles O44: all bytes are captured, and the silence since the last one's POLL completes the slot. -/
theorem silenceEndsAShortFrame : Obligations.SilenceEndsAShortFrame := by
  intro s c times t0 t1 bytes readies reads hparams hvalid ht0 ht1 hlength hidle hwf harmed hidx hcap hgood htimeout hready
    hread hadmitted hsilence
  have hbuf := buf_add_idx_zero hidx
  have hzero : (s.rx c).idx.toNat = 0 := congrArg BitVec.toNat hidx
  have hlt := (s.rx c).cap.isLt
  have h : Receiving c (bytes ++ []) (false :: readies) reads s := by
    rw [List.append_nil]
    exact ⟨hidle, harmed, htimeout, by omega, hready, hread, by rwa [hbuf]⟩
  obtain ⟨t, hexec, hcaptured, hsilent⟩ := execAll_polls_captured (times ++ [t0]) bytes
    (List.forall_mem_append.mpr ⟨hvalid, List.forall_mem_singleton.mpr ht0⟩) (by simpa using hlength) h (by omega)
  rw [List.getLastD_concat] at hcaptured
  have hlast : (t.rx c).last = t0 := by rw [hcaptured.rx]
  have hcount := hcaptured.idx_toNat (by omega)
  rw [hzero, Nat.zero_add] at hcount
  have hkept : (t.rx c).cap = (s.rx c).cap := by rw [hcaptured.rx]
  have hroom (_ : (t.rx c).state = .armed) : (t.rx c).idx ≠ (t.rx c).cap := fun hfull => by
    rw [hfull, hkept] at hcount
    omega
  obtain ⟨w, hexec', -, hmem, hrx⟩ := exec_poll_stores_nothing (sec := t1.sec) ht1 (hcaptured.params ▸ hparams)
    (hlast ▸ ht0) hroom (.inr (.inl (hwRxReady_of_queue hsilent.ready))) (hsilent.idle ▸ nofun)
  have hmemory : w.mem = writeBytes s.mem (s.rx c).buf bytes := by rw [hmem, hcaptured.mem, hbuf]
  have hsilence' : tsValue (t.timeout c) ≤ (tsValue t1 + wrapPeriod - tsValue (t.rx c).last) % wrapPeriod := by
    rwa [State.timeout, hcaptured.params, hlast]
  rw [if_pos ⟨hsilent.armed, by omega, hsilence'⟩] at hrx
  refine ⟨w, ?_, by rw [hrx]; rfl, by rw [hrx]; rfl, ?_, fun k hk => ?_, fun x hx => ?_⟩
  · rw [List.append_cons, List.map_append, execAll_append hexec]
    simp only [List.map_cons, List.map_nil, execAll, hexec']
  · rw [hrx]
    exact hcount
  · rw [hmemory]
    exact memRead_writeBytes hwf (by omega) hk
  · rw [hmemory]
    exact memRead_writeBytes_of_ne hwf hx

end Sys2Proof.Machine
end

section
/-! One POLL as a whole (R300 to R303): it answers and stays in its channel, its work is bounded half by half, and what it does
follows from its channel, its line and memory. O46, O48, O49. -/

namespace Sys2Proof.Machine

open Sys2Proof

/-! ## An admitted POLL (R300) -/

theorem txStep_stuck (s : State) (c : Chan) : (txStep s c).state.stuck = s.stuck := by
  obtain ⟨-, h⟩ | ⟨-, -, h⟩ | ⟨-, -, -, h⟩ | ⟨-, -, -, h⟩ := txStep_cases s c <;> rw [h] <;> rfl

theorem afterLine_stuck (s : State) (c : Chan) : (afterLine s c).stuck = s.stuck := by
  obtain ⟨ls, h⟩ := afterLine_eq s c
  rw [h]

theorem rxStep_stuck (s : State) (c : Chan) (t : Timestamp) : (rxStep s c t).state.stuck = s.stuck := by
  obtain ⟨-, h⟩ | ⟨b, -, -, h⟩ | ⟨b, -, -, h⟩ := rxStep_cases s c t <;> rw [h] <;> exact afterLine_stuck s c

/-- Both halves go on when their accesses are admitted, and only `conclude` marks a command as stuck (R300, R81). -/
theorem pollBoth_going {s : State} {c : Chan} (t : Timestamp)
    (hsend : (s.tx c).state = .draining → memOk s.params ⟨.read, (s.tx c).curAddr⟩ = true)
    (hstore : (s.rx c).state = .armed → memOk s.params ⟨.write, (s.rx c).buf + (s.rx c).idx⟩ = true) :
    ∃ s2, pollBoth s c t = .going s2 ∧ s2.stuck = s.stuck := by
  obtain ⟨s1, htx⟩ := txStep_going hsend
  have hsame := txStep_sameReceive s c
  have hstuck := txStep_stuck s c
  rw [htx] at hsame hstuck
  change SameReceive c s s1 at hsame
  rw [← hsame.rx, ← hsame.params] at hstore
  obtain ⟨s2, hrx⟩ := rxStep_going t hstore
  have hstuck' := rxStep_stuck s1 c t
  rw [hrx] at hstuck'
  exact ⟨s2, (pollBoth_of_going t htx).trans hrx, hstuck'.trans hstuck⟩

/-- What the frame of a channel command leaves of the whole state (R55, R301). -/
theorem OnlyChannel.eq_of_stuck {c : Chan} {s t : State} (h : OnlyChannel c s t) (hstuck : t.stuck = s.stuck) :
    t = { s with ch := t.ch, txLog := t.txLog, lines := t.lines, mem := t.mem, micro := t.micro, resp := t.resp } := by
  rw [← h.params, ← h.clk, ← h.turns, ← h.host, ← h.subTicks, ← hstuck]

/-- Settles O46: with both accesses admitted both halves go on and the POLL answers OK, within the frame of a channel command. -/
theorem pollCompletes : Obligations.PollCompletes := by
  intro s c sec ns
  refine ⟨fun hns hsend hstore => ?_, fun hns => execPoll_of_invalid hns⟩
  obtain ⟨s2, hpoll, hstuck⟩ := pollBoth_going ⟨sec, ns⟩ hsend hstore
  have hexec : exec (.poll c sec ns) s = .next (s2.ret .ok 0 0) :=
    (execPoll_of_valid hns).trans (by rw [hpoll, conclude_going])
  have honly : OnlyChannel c s (s2.ret .ok 0 0) := exec_only_of_chan rfl hexec
  exact ⟨_, hexec, rfl, rfl, honly.others, honly.eq_of_stuck hstuck⟩

/-! ## The work of one POLL (R207, R302, R303) -/

/-- From `s` to `t` line `c` was asked HwTxReady at most once, and at most the byte at CUR_ADDR was sent (R207, R302). -/
structure TransmitWork (c : Chan) (s t : State) : Prop where
  asks : (lineUses t c).1 ≤ (lineUses s c).1 + 1
  log  : t.log c = s.log c ∨ t.log c = s.log c ++ [memRead s.mem (s.tx c).curAddr.toNat]

/-- From `s` to `t` line `c` was asked HwRxReady at most once, was read only if it had answered 1 and then once, and memory
changed at most at the slot's next address (R302, R303). -/
structure ReceiveWork (c : Chan) (s t : State) : Prop where
  asks  : (lineUses t c).2.1 ≤ (lineUses s c).2.1 + 1
  reads : (lineUses t c).2.2 = (lineUses s c).2.2 + 1 ∧ (hwRxReady s c).1 = true ∨ (lineUses t c).2.2 = (lineUses s c).2.2
  mem   : ∀ x, x ≠ ((s.rx c).buf + (s.rx c).idx).toNat → memRead t.mem x = memRead s.mem x

theorem SameTransmit.transmitWork {c : Chan} {s t : State} (h : SameTransmit c s t) : TransmitWork c s t where
  asks := (congrArg Draws.taken h.txReady).le.trans (Nat.le_succ _)
  log := .inl h.log

theorem SameReceive.receiveWork {c : Chan} {s t : State} (h : SameReceive c s t) : ReceiveWork c s t where
  asks := (congrArg Draws.taken h.rxReady).le.trans (Nat.le_succ _)
  reads := .inr (congrArg Draws.taken h.read)
  mem x _ := by rw [h.mem]

/-- Nothing the receive half does adds to the work of the transmit half before it. -/
theorem TransmitWork.of_sameTransmit {c : Chan} {s t u : State} (h : TransmitWork c s t) (k : SameTransmit c t u) :
    TransmitWork c s u where
  asks := (congrArg Draws.taken k.txReady).le.trans h.asks
  log := by rw [k.log]; exact h.log

/-- The work of the receive half is the same counted from before the transmit half. -/
theorem ReceiveWork.after_sameReceive {c : Chan} {s t u : State} (h : SameReceive c s t) (k : ReceiveWork c t u) :
    ReceiveWork c s u := by
  have huses : (lineUses t c).2 = (lineUses s c).2 := by simp only [lineUses, h.rxReady, h.read]
  obtain ⟨hasks, hreads, hmem⟩ := k
  rw [huses] at hasks hreads
  rw [h.hwRxReady_fst] at hreads
  rw [h.rx, h.mem] at hmem
  exact ⟨hasks, hreads, hmem⟩

theorem txStep_transmitWork (s : State) (c : Chan) : TransmitWork c s (txStep s c).state := by
  have hasks : (lineUses (hwTxReady s c).2 c).1 ≤ (lineUses s c).1 + 1 := (congrArg Prod.fst (lineUses_hwTxReady s c)).le
  obtain ⟨-, h⟩ | ⟨-, -, h⟩ | ⟨-, -, -, h⟩ | ⟨-, -, -, h⟩ := txStep_cases s c <;> rw [h]
  · exact ⟨Nat.le_succ _, .inl rfl⟩
  · exact ⟨hasks, .inl rfl⟩
  · exact ⟨hasks, .inl rfl⟩
  · exact ⟨hasks, .inr ((hwWrite_log _ c c _).trans (if_pos rfl))⟩

theorem afterLine_receiveWork (s : State) (c : Chan) : ReceiveWork c s (afterLine s c) where
  asks := by simp [lineUses, afterLine_line]
  reads := by
    rw [lineUses, afterLine_line]
    cases hready : (hwRxReady s c).1 with
    | true => exact .inl ⟨draw_taken _ _, rfl⟩
    | false => exact .inr rfl
  mem x _ := by rw [afterLine_mem]

theorem rxStep_receiveWork {s : State} (hwf : memWf s.mem = true) (c : Chan) (t : Timestamp) :
    ReceiveWork c s (rxStep s c t).state := by
  have hline := afterLine_receiveWork s c
  obtain ⟨-, h⟩ | ⟨b, -, -, h⟩ | ⟨b, -, -, h⟩ := rxStep_cases s c t <;> rw [h]
  · exact { hline with }
  · refine { hline with mem := fun x hx => ?_ }
    change memRead (memWrite (afterLine s c).mem _ b) x = _
    rw [afterLine_mem, memRead_memWrite hwf, if_neg hx]
  · exact hline

/-- Each half does its own work once; a half that is not reached does none (R300). -/
theorem pollBoth_work {s : State} (hwf : memWf s.mem = true) (c : Chan) (t : Timestamp) :
    TransmitWork c s (pollBoth s c t).state ∧ ReceiveWork c s (pollBoth s c t).state := by
  have hsend := txStep_transmitWork s c
  have hsame := txStep_sameReceive s c
  cases htx : txStep s c with
  | hung s1 a =>
    rw [htx] at hsend hsame
    rw [pollBoth_of_hung t htx]
    exact ⟨hsend, hsame.receiveWork⟩
  | going s1 =>
    rw [htx] at hsend hsame
    change SameReceive c s s1 at hsame
    rw [pollBoth_of_going t htx]
    exact ⟨hsend.of_sameTransmit (rxStep_sameTransmit s1 c t),
      .after_sameReceive hsame (rxStep_receiveWork (hsame.mem ▸ hwf) c t)⟩

theorem conclude_work {c : Chan} {s : State} :
    ∀ {p : Progress}, TransmitWork c s p.state ∧ ReceiveWork c s p.state →
      TransmitWork c s (conclude p) ∧ ReceiveWork c s (conclude p)
  | .going _, ⟨h, k⟩ => ⟨{ h with }, { k with }⟩
  | .hung _ _, ⟨h, k⟩ => ⟨{ h with }, { k with }⟩

theorem exec_poll_work {s t : State} {c : Chan} {sec ns : Word} (hwf : memWf s.mem = true)
    (h : exec (.poll c sec ns) s = .next t) : TransmitWork c s t ∧ ReceiveWork c s t := by
  obtain ⟨r, -, rfl⟩ | ⟨-, rfl⟩ := execPoll_cases h
  · exact ⟨SameTransmit.transmitWork ⟨rfl, rfl, rfl⟩, SameReceive.receiveWork ⟨rfl, rfl, rfl, rfl, rfl⟩⟩
  · exact conclude_work (pollBoth_work hwf c _)

/-- Settles O48: the work of the two halves. -/
theorem pollDoesBoundedWork : Obligations.PollDoesBoundedWork := by
  intro s t c sec ns hwf h
  obtain ⟨⟨htxAsks, hlog⟩, ⟨hrxAsks, hreads, hmem⟩⟩ := exec_poll_work hwf h
  refine ⟨htxAsks, hrxAsks, ?_, fun hnotReady => ?_, hlog, hmem⟩
  · obtain ⟨hread, -⟩ | hnone := hreads
    · exact hread.le
    · exact hnone.le.trans (Nat.le_succ _)
  · obtain ⟨-, hready⟩ | hnone := hreads
    · nomatch hready.symm.trans hnotReady
    · exact hnone

/-! ## What a POLL depends on (R301) -/

/-- Two states alike in all that a POLL of `c` may look at: the parameters, the channel, its log, its line and memory. -/
structure AgreeOn (c : Chan) (s t : State) : Prop where
  params : s.params = t.params
  chan   : s.chan c = t.chan c
  log    : s.log c = t.log c
  line   : s.line c = t.line c
  mem    : s.mem = t.mem

namespace AgreeOn

variable {c : Chan} {s t : State} (h : AgreeOn c s t)
include h

theorem tx : s.tx c = t.tx c := congrArg Channel.tx h.chan

theorem sameReceive : SameReceive c t s where
  params := h.params
  mem := h.mem
  rx := congrArg Channel.rx h.chan
  rxReady := congrArg Line.rxReady h.line
  read := congrArg Line.read h.line

theorem setTx (x : TxSide) : AgreeOn c (s.setTx c x) (t.setTx c x) :=
  { h with chan := by rw [setTx_chan, setTx_chan, h.chan] }

theorem setRx (r : RxSide) : AgreeOn c (s.setRx c r) (t.setRx c r) :=
  { h with chan := by rw [setRx_chan, setRx_chan, h.chan] }

theorem hwWrite (b : Byte) : AgreeOn c (hwWrite s c b) (hwWrite t c b) :=
  { h with log := by rw [hwWrite_log, hwWrite_log, h.log] }

theorem storeByte (a : Word) (b : Byte) : AgreeOn c (storeByte s a b) (storeByte t a b) :=
  { h with mem := by rw [storeByte_mem, storeByte_mem, h.mem] }

theorem hwTxReady_fst : (hwTxReady s c).1 = (hwTxReady t c).1 := by simp only [hwTxReady, h.line]

theorem hwTxReady : AgreeOn c (hwTxReady s c).2 (hwTxReady t c).2 :=
  { h with line := by rw [hwTxReady_line, hwTxReady_line, h.line] }

theorem afterLine : AgreeOn c (afterLine s c) (afterLine t c) where
  params := by rw [afterLine_params, afterLine_params, h.params]
  chan := by
    obtain ⟨ls, hs⟩ := afterLine_eq s c
    obtain ⟨lt, ht⟩ := afterLine_eq t c
    rw [hs, ht]
    exact h.chan
  log := ((afterLine_sameTransmit s c).log.trans h.log).trans (afterLine_sameTransmit t c).log.symm
  line := by rw [afterLine_line, afterLine_line, h.line, h.sameReceive.hwRxReady_fst]
  mem := by rw [afterLine_mem, afterLine_mem, h.mem]

end AgreeOn

/-- Two runs of effects that stand alike: both go on, or both stopped on the same access. -/
inductive Progress.AgreeOn (c : Chan) : Progress → Progress → Prop
  | going {s t : State} (h : Machine.AgreeOn c s t) : AgreeOn c (.going s) (.going t)
  | hung {s t : State} (h : Machine.AgreeOn c s t) (a : Access) : AgreeOn c (.hung s a) (.hung t a)

namespace AgreeOn

variable {c : Chan} {s t : State} (h : AgreeOn c s t)
include h

theorem txStep : (txStep s c).AgreeOn c (txStep t c) := by
  have hasked := h.hwTxReady
  obtain ⟨hidle, heq⟩ | ⟨hdraining, hready, heq⟩ | ⟨hdraining, hready, hmem, heq⟩ | ⟨hdraining, hready, hmem, heq⟩ :=
    txStep_cases s c <;> rw [heq]
  · rw [txStep_of_idle (h.tx ▸ hidle)]
    exact .going h
  · rw [txStep_of_not_ready (h.tx ▸ hdraining) (h.hwTxReady_fst ▸ hready)]
    exact .going hasked
  · rw [h.tx] at hdraining hmem ⊢
    rw [txStep_of_refused hdraining (h.hwTxReady_fst ▸ hready) (h.params ▸ hmem)]
    exact .hung hasked _
  · rw [h.tx] at hdraining hmem ⊢
    rw [h.mem, txStep_of_admitted hdraining (h.hwTxReady_fst ▸ hready) (h.params ▸ hmem)]
    exact .going ((hasked.hwWrite _).setTx _)

theorem rxStep (u : Timestamp) : (rxStep s c u).AgreeOn c (rxStep t c u) := by
  have hsame := h.sameReceive
  obtain ⟨hnone, heq⟩ | ⟨b, hb, hmem, heq⟩ | ⟨b, hb, hmem, heq⟩ := rxStep_cases s c u <;> rw [heq, hsame.rx]
  · rw [rxStep_of_none u (hsame.acceptedByte_eq ▸ hnone), hsame.timeout]
    exact .going (h.afterLine.setRx _)
  · rw [hsame.rx, h.params] at hmem
    rw [rxStep_of_stored u (hsame.acceptedByte_eq ▸ hb) hmem, hsame.timeout]
    exact .going ((h.afterLine.storeByte _ b).setRx _)
  · rw [hsame.rx, h.params] at hmem
    obtain ⟨harmed, hready, hgot⟩ := acceptedByte_some (hsame.acceptedByte_eq ▸ hb)
    rw [rxStep_of_refused harmed hready (congrArg Prod.snd hgot) hmem]
    exact .hung h.afterLine _

theorem pollBoth (u : Timestamp) : (pollBoth s c u).AgreeOn c (pollBoth t c u) := by
  have htx := h.txStep
  unfold Machine.pollBoth
  generalize Machine.txStep s c = p, Machine.txStep t c = q at htx ⊢
  cases htx with
  | going h1 => exact h1.rxStep u
  | hung h1 a => exact .hung h1 a

end AgreeOn

theorem conclude_agreeOn {c : Chan} {p q : Progress} (h : p.AgreeOn c q) :
    AgreeOn c (conclude p) (conclude q) ∧ (conclude p).resp = (conclude q).resp := by
  cases h with
  | going h => exact ⟨{ h with }, rfl⟩
  | hung h a => exact ⟨{ h with }, rfl⟩

/-- POLLs of states that agree on the channel answer alike, in states that agree on it (R301). -/
theorem AgreeOn.exec_poll {c : Chan} {s1 s2 : State} (h : AgreeOn c s1 s2) (sec ns : Word) :
    ∃ t1 t2, exec (.poll c sec ns) s1 = .next t1 ∧ exec (.poll c sec ns) s2 = .next t2 ∧
      AgreeOn c t1 t2 ∧ t1.resp = t2.resp := by
  obtain hvalid | hinvalid := Nat.lt_or_ge ns.toNat nsPerS
  · exact ⟨_, _, execPoll_of_valid hvalid, execPoll_of_valid hvalid, conclude_agreeOn (h.pollBoth ⟨sec, ns⟩)⟩
  · exact ⟨_, _, execPoll_of_invalid hinvalid, execPoll_of_invalid hinvalid, { h with }, rfl⟩

/-- Settles O49: agreement on the channel is kept by both halves of a POLL. -/
theorem pollDependsOnItsChannelOnly : Obligations.PollDependsOnItsChannelOnly := by
  intro s1 s2 c sec ns hparams hchan hlog hline hmem
  obtain ⟨t1, t2, hexec1, hexec2, ht, hresp⟩ := AgreeOn.exec_poll ⟨hparams, hchan, hlog, hline, hmem⟩ sec ns
  exact ⟨t1, t2, hexec1, hexec2, ht.chan, ht.log, ht.line, ht.mem, hresp⟩

end Sys2Proof.Machine
end

section
/-! How a presented command ends (R15, R48, R81, R330 to R334), said once for every instruction: O54, O55, O56. -/

namespace Sys2Proof.Machine

open Sys2Proof

/-! ## The ways a command can end -/

/-- The causes of REJECTED: the checks of SEND and of RECV (R332). -/
def RejectionCause (s : State) : Instr → Prop
  | .send c desc count => count ≠ 0 ∧ ((s.tx c).state = .draining ∨ fragMax < count.toNat ∨
      ∃ fs, loadFrags s desc count.toNat = .ok fs ∧ byteMax < totalLen fs)
  | .recv c _ cap => (s.rx c).state = .armed ∨ cap.toNat = 0 ∨ byteMax < cap.toNat
  | _ => False

/-- The causes of ILLEGAL once a command is decoded: an invalid timestamp operand, or a selector that names no register (R333). -/
def IllegalCause : Instr → Prop
  | .delta _ ans _ bns | .cmp _ ans _ bns => nsPerS ≤ ans.toNat ∨ nsPerS ≤ bns.toNat
  | .poll _ _ ns => nsPerS ≤ ns.toNat
  | .clkrd sel => 3 ≤ sel.toNat
  | _ => False

/-- The instructions that take more than one step (R19, R48). -/
def TakesMicroSteps (i : Instr) : Prop := i = .now ∨ i = .hrnow ∨ ∃ c buf cap, i = .recv c buf cap

/-- The state in which instruction `i`, presented in `s`, ends its step. The effects of an OK or a stuck command leave a free
state free; the other ends are reached from `s` itself. -/
inductive CommandEnd (i : Instr) (s : State) : State → Prop
  | ok {u : State} (hfree : s.free → u.free) (r0 r1 : Word) : CommandEnd i s (u.ret .ok r0 r1)
  | rejected (hcause : RejectionCause s i) : CommandEnd i s (s.ret .rejected 0 0)
  | illegal (hcause : IllegalCause i) : CommandEnd i s (s.ret .illegal 0 0)
  | paused (hmicro : TakesMicroSteps i) (m : Micro) : CommandEnd i s (s.pause m)
  | stuck {u : State} {a : Access} (hfree : s.free → u.free) (hrefused : memOk s.params a = false) :
      CommandEnd i s (u.hang a)

/-! ## Operations that leave a free state free -/

theorem setTx_free {s : State} {c : Chan} {x : TxSide} : s.free → (s.setTx c x).free := id

theorem setRx_free {s : State} {c : Chan} {x : RxSide} : s.free → (s.setRx c x).free := id

theorem hwTxReady_free {s : State} {c : Chan} : s.free → (hwTxReady s c).2.free := id

theorem hwWrite_free {s : State} {c : Chan} {b : Byte} : s.free → (hwWrite s c b).free := id

theorem storeByte_free {s : State} {a : Word} {b : Byte} : s.free → (storeByte s a b).free := id

/-! ## The two halves of POLL (R300) -/

/-- A run of effects begun in `s` leaves a free state free, and stops only on an access the platform refuses (R81). -/
def Progress.RunsFrom (s : State) : Progress → Prop
  | .going t => s.free → t.free
  | .hung t a => (s.free → t.free) ∧ memOk s.params a = false

theorem txStep_runsFrom (s : State) (c : Chan) : (txStep s c).RunsFrom s := by
  obtain ⟨-, h⟩ | ⟨-, -, h⟩ | ⟨-, -, hrefused, h⟩ | ⟨-, -, -, h⟩ := txStep_cases s c <;> rw [h]
  · exact id
  · exact hwTxReady_free
  · exact ⟨hwTxReady_free, hrefused⟩
  · exact fun hfree => setTx_free (hwWrite_free (hwTxReady_free hfree))

theorem rxStep_runsFrom (s : State) (c : Chan) (t : Timestamp) : (rxStep s c t).RunsFrom s := by
  obtain ⟨-, h⟩ | ⟨b, -, -, h⟩ | ⟨b, -, hrefused, h⟩ := rxStep_cases s c t <;> rw [h]
  · exact fun hfree => setRx_free (afterLine_free hfree)
  · exact fun hfree => setRx_free (storeByte_free (afterLine_free hfree))
  · exact ⟨afterLine_free, hrefused⟩

theorem Progress.RunsFrom.of_state {s s1 : State} {p : Progress} (hfree : s.free → s1.free) (hparams : s1.params = s.params)
    (h : p.RunsFrom s1) : p.RunsFrom s := by
  cases p with
  | going t => exact h ∘ hfree
  | hung t a => exact ⟨h.1 ∘ hfree, hparams ▸ h.2⟩

theorem pollBoth_runsFrom (s : State) (c : Chan) (t : Timestamp) : (pollBoth s c t).RunsFrom s := by
  have htxRuns := txStep_runsFrom s c
  have hparams := (txStep_only s c).params
  cases htx : txStep s c with
  | going s1 =>
    rw [htx] at htxRuns hparams
    rw [pollBoth_of_going t htx]
    exact (rxStep_runsFrom s1 c t).of_state htxRuns hparams
  | hung s1 a =>
    rw [htx] at htxRuns
    rw [pollBoth_of_hung t htx]
    exact htxRuns

theorem conclude_commandEnd (i : Instr) {s : State} {p : Progress} (h : p.RunsFrom s) : CommandEnd i s (conclude p) := by
  cases p with
  | going t => exact .ok h 0 0
  | hung t a => exact .stuck h.1 h.2

/-! ## Every instruction ends in one of these ways -/

/-- Operands that are not both valid timestamps have nanoseconds out of range (R115). -/
theorem nsPerS_le_of_invalid {asec ans bsec bns : Word} (h : ¬ (tsValid ⟨asec, ans⟩ ∧ tsValid ⟨bsec, bns⟩)) :
    nsPerS ≤ ans.toNat ∨ nsPerS ≤ bns.toNat :=
  (not_and_or.mp h).imp Nat.le_of_not_lt Nat.le_of_not_lt

theorem clkOperand_eq_none {k : Clock} {sel : Word} (h : clkOperand k sel = none) : 3 ≤ sel.toNat := by
  by_contra hlt
  obtain rfl | rfl | rfl : sel = 0 ∨ sel = 1 ∨ sel = 2 := by bv_omega
  all_goals nomatch h

theorem execClkrd_ends (sel : Word) (s : State) : ∃ t, execClkrd sel s = .next t ∧ CommandEnd (.clkrd sel) s t := by
  unfold execClkrd
  cases hop : clkOperand s.clk sel with
  | some v => exact ⟨_, rfl, .ok id v 0⟩
  | none => exact ⟨_, rfl, .illegal (clkOperand_eq_none hop)⟩

/-- The checks of SEND in their order (R201). -/
theorem exec_send_ends (c : Chan) (desc count : Word) (s : State) :
    ∃ t, exec (.send c desc count) s = .next t ∧ CommandEnd (.send c desc count) s t := by
  obtain ⟨hempty, hbusy, hmany, hlong⟩ := sendEmptyOrRejectedChangesNothing s c desc count
  by_cases hcount : count = 0
  · exact ⟨_, hempty hcount, .ok id 0 0⟩
  cases hstate : (s.tx c).state with
  | draining => exact ⟨_, hbusy hcount hstate, .rejected ⟨hcount, .inl hstate⟩⟩
  | idle =>
    obtain hmax | hmax := Nat.lt_or_ge fragMax count.toNat
    · exact ⟨_, hmany hmax, .rejected ⟨hcount, .inr (.inl hmax)⟩⟩
    cases hload : loadFrags s desc count.toNat with
    | error a =>
      have hpos : 1 ≤ count.toNat := Nat.pos_of_ne_zero fun h0 => hcount (BitVec.eq_of_toNat_eq h0)
      exact ⟨_, execSend_of_refused hstate hpos hmax hload, .stuck id (loadFrags_error hload)⟩
    | ok fs =>
      obtain htotal | htotal := Nat.lt_or_ge byteMax (totalLen fs)
      · exact ⟨_, hlong fs hcount hmax hstate hload htotal, .rejected ⟨hcount, .inr (.inr ⟨fs, hload, htotal⟩)⟩⟩
      · exact ⟨_, (execSend_of_loaded hstate hcount hmax hload).trans (if_neg (Nat.not_lt.mpr htotal)), .ok setTx_free 0 0⟩

/-- RECV fails one of its checks, or takes the first micro-step of its HRNOW (R250). -/
theorem exec_recv_ends (c : Chan) (buf cap : Word) (s : State) :
    ∃ t, exec (.recv c buf cap) s = .next t ∧ CommandEnd (.recv c buf cap) s t := by
  by_cases hcause : RejectionCause s (.recv c buf cap)
  · exact ⟨_, recvRejectionsChangeNothing s c buf cap hcause, .rejected hcause⟩
  · obtain ⟨harmed, hzero, hmax⟩ := by simpa only [RejectionCause, not_or] using hcause
    have hunarmed : (s.rx c).state = .unarmed := by
      cases h : (s.rx c).state with
      | unarmed => rfl
      | armed => exact absurd h harmed
    exact ⟨_, execRecv_of_accepted hunarmed ⟨Nat.pos_of_ne_zero hzero, Nat.le_of_not_lt hmax⟩,
      .paused (.inr (.inr ⟨c, buf, cap, rfl⟩)) _⟩

theorem exec_ends (i : Instr) (s : State) : ∃ t, exec i s = .next t ∧ CommandEnd i s t := by
  cases i with
  | now => exact ⟨_, rfl, .paused (.inl rfl) _⟩
  | hrnow => exact ⟨_, rfl, .paused (.inr (.inl rfl)) _⟩
  | delta asec ans bsec bns =>
    by_cases h : tsValid ⟨asec, ans⟩ ∧ tsValid ⟨bsec, bns⟩
    · exact ⟨_, execDelta_of_valid h.1 h.2 s, .ok id _ _⟩
    · exact ⟨_, execDelta_of_invalid h s, .illegal (nsPerS_le_of_invalid h)⟩
  | cmp asec ans bsec bns =>
    by_cases h : tsValid ⟨asec, ans⟩ ∧ tsValid ⟨bsec, bns⟩
    · exact ⟨_, execCmp_of_valid h.1 h.2 s, .ok id _ _⟩
    · exact ⟨_, execCmp_of_invalid h s, .illegal (nsPerS_le_of_invalid h)⟩
  | norm => exact ⟨_, rfl, .ok id _ _⟩
  | clkrd sel => exact execClkrd_ends sel s
  | send c desc count => exact exec_send_ends c desc count s
  | txabort c => exact ⟨_, rfl, .ok setTx_free 0 0⟩
  | txbusy c => exact ⟨_, rfl, .ok hwTxReady_free _ 0⟩
  | recv c buf cap => exact exec_recv_ends c buf cap s
  | rxabort c =>
    obtain ⟨harmed, hunarmed⟩ := rxabortCompletesTheSlot s c
    cases hstate : (s.rx c).state with
    | armed => exact ⟨_, harmed hstate, .ok setRx_free 0 0⟩
    | unarmed => exact ⟨_, hunarmed hstate, .ok id 0 0⟩
  | rxbusy => exact ⟨_, rfl, .ok id _ _⟩
  | rxstat => exact ⟨_, rfl, .ok id _ _⟩
  | poll c sec ns =>
    obtain hvalid | hinvalid := Nat.lt_or_ge ns.toNat nsPerS
    · exact ⟨_, execPoll_of_valid hvalid, conclude_commandEnd _ (pollBoth_runsFrom s c ⟨sec, ns⟩)⟩
    · exact ⟨_, execPoll_of_invalid hinvalid, .illegal hinvalid⟩

theorem commandEnd_of_exec {i : Instr} {s t : State} (h : exec i s = .next t) : CommandEnd i s t := by
  obtain ⟨t', hexec, hend⟩ := exec_ends i s
  cases hexec.symm.trans h
  exact hend

/-! ## What the answer says of the end -/

/-- An answer other than OK is a failed check, with `s` as it was and zero result words (R334). -/
theorem CommandEnd.of_not_ok {i : Instr} {s t : State} {r : Response} (h : CommandEnd i s t) (hresp : t.resp = some r)
    (hst : r.st ≠ .ok) :
    t = s.ret r.st 0 0 ∧ (r.st = .rejected ∧ RejectionCause s i ∨ r.st = .illegal ∧ IllegalCause i) := by
  cases h with
  | ok => cases hresp; exact absurd rfl hst
  | rejected hcause => cases hresp; exact ⟨rfl, .inl ⟨rfl, hcause⟩⟩
  | illegal hcause => cases hresp; exact ⟨rfl, .inr ⟨rfl, hcause⟩⟩
  | paused => nomatch hresp
  | stuck => nomatch hresp

/-- The end of a command presented to a free block (R48, R110, R330). -/
theorem CommandEnd.returned_paused_or_stuck {i : Instr} {s t : State} (h : CommandEnd i s t) (hs : s.free) :
    (t.micro = none ∧ t.stuck = none ∧ ∃ r, t.resp = some r ∧ r.good) ∨
    (t.stuck = none ∧ t.resp = none ∧ t.micro ≠ none ∧ TakesMicroSteps i) ∨
    (t.micro = none ∧ t.resp = none ∧ ∃ a, t.stuck = some a ∧ memOk s.params a = false) := by
  have hzero : ∀ st : Status, Response.good ⟨st, 0, 0, 0⟩ := fun _ => ⟨rfl, fun _ => ⟨rfl, rfl⟩⟩
  cases h with
  | ok hfree => exact .inl ⟨rfl, (hfree hs).2, _, rfl, rfl, fun hne => absurd rfl hne⟩
  | rejected => exact .inl ⟨rfl, hs.2, _, rfl, hzero _⟩
  | illegal => exact .inl ⟨rfl, hs.2, _, rfl, hzero _⟩
  | paused hmicro m => exact .inr (.inl ⟨hs.2, rfl, nofun, hmicro⟩)
  | stuck hfree hrefused => exact .inr (.inr ⟨(hfree hs).1, rfl, _, rfl, hrefused⟩)

theorem RejectionCause.send_or_recv {s : State} {i : Instr} (h : RejectionCause s i) :
    (∃ c desc count, i = .send c desc count ∧ count ≠ 0 ∧
      ((s.tx c).state = .draining ∨ 32 < count.toNat ∨
        ∃ fs, loadFrags s desc count.toNat = .ok fs ∧ 65528 < totalLen fs)) ∨
    (∃ c buf cap, i = .recv c buf cap ∧ ((s.rx c).state = .armed ∨ cap.toNat = 0 ∨ 65528 < cap.toNat)) := by
  cases i with
  | send c desc count => exact .inl ⟨c, desc, count, rfl, h⟩
  | recv c buf cap => exact .inr ⟨c, buf, cap, rfl, h⟩
  | _ => exact h.elim

theorem IllegalCause.timestamp_or_selector {i : Instr} (h : IllegalCause i) :
    (∃ a b c d, (i = .delta a b c d ∨ i = .cmp a b c d) ∧ (1000000000 ≤ b.toNat ∨ 1000000000 ≤ d.toNat)) ∨
    (∃ c a b, i = .poll c a b ∧ 1000000000 ≤ b.toNat) ∨
    (∃ sel, i = .clkrd sel ∧ 3 ≤ sel.toNat) := by
  cases i with
  | delta a b c d => exact .inl ⟨a, b, c, d, .inl rfl, h⟩
  | cmp a b c d => exact .inl ⟨a, b, c, d, .inr rfl, h⟩
  | poll c a b => exact .inr (.inl ⟨c, a, b, rfl, h⟩)
  | clkrd sel => exact .inr (.inr ⟨sel, rfl, h⟩)
  | _ => exact h.elim

/-- Settles O54: each end of a command is one of the three. -/
theorem everyCommandReturnsGoesOnOrIsStuck : Obligations.EveryCommandReturnsGoesOnOrIsStuck := by
  intro i s hs
  obtain ⟨t, hexec, hend⟩ := exec_ends i s
  exact ⟨t, hexec, hend.returned_paused_or_stuck hs⟩

/-- Settles O55: only a failed check answers other than OK, and a free block has no micro-step state to clear. -/
theorem rejectedOrIllegalChangesNothing : Obligations.RejectedOrIllegalChangesNothing := by
  intro i s t r hs hexec hresp hst
  obtain ⟨hmicro, -⟩ := hs
  obtain ⟨heq, -⟩ := (commandEnd_of_exec hexec).of_not_ok hresp hst
  rw [heq, hmicro]
  rfl

/-- Settles O56: each failed check has its cause. -/
theorem causesOfRejectedAndIllegal : Obligations.CausesOfRejectedAndIllegal := by
  intro i s t r hexec hresp
  have hend := commandEnd_of_exec hexec
  refine ⟨fun hst => ?_, fun hst => ?_⟩
  · obtain ⟨-, ⟨-, hcause⟩ | ⟨hst', -⟩⟩ := hend.of_not_ok hresp (hst ▸ nofun)
    · exact hcause.send_or_recv
    · nomatch hst.symm.trans hst'
  · obtain ⟨-, ⟨hst', -⟩ | ⟨-, hcause⟩⟩ := hend.of_not_ok hresp (hst ▸ nofun)
    · nomatch hst.symm.trans hst'
    · exact hcause.timestamp_or_selector

end Sys2Proof.Machine
end
